-- ==== Sys2Proof/Word.lean ====
section
/-! DEFINITION. The word types of the codec core (00_scope.md R9 to R11). -/

namespace Sys2Proof

/-- A command word or a response word: 32 bits, bit 0 least significant (00_scope.md R11). -/
abbrev Word := BitVec 32

/-- A 16-bit register or the D field of a command (00_scope.md R5, 30_encoding.md R49). -/
abbrev Half := BitVec 16

/-- A bit sequence: the head is the first bit in sequence order (00_scope.md R9, R10). -/
abbrev BitSeq := List Bool

end Sys2Proof
end

