-- ==== Sys2Proof/Syntax.lean ====
section
/-! DEFINITION. The commands of the codec core as syntax: one constructor per row of spec/opcode_table.json. -/

namespace Sys2Proof

/-- The registers RD can select, in the order of their index 0 to 8 (10_state.md R30). Indices 9 to 31 are reserved
and have no constructor. -/
inductive Reg where
  | cfg
  | crcstat
  | rxstat
  | rxpidx
  | rxepos
  | rxfcnt
  | rxtail
  | rxcrc
  | rxvw
deriving DecidableEq, Repr

/-- A command (30_encoding.md R53). Format F commands carry the count N as `n` and the field D as `d`
(30_encoding.md R51). -/
inductive Instr where
  | nop
  | crcClr
  | crcFeed (n : Nat) (d : Half)
  | faTail
  | menc (n : Nat) (d : Half)
  | rxClr
  | mdFeed (n : Nat) (d : Half)
  | fdFeed (n : Nat) (d : Half)
  | rxEnd
  | rd (r : Reg)
  | srst
deriving DecidableEq, Repr

end Sys2Proof
end

