-- ==== Sys2Proof/WellFormed.lean ====
section
/-! DEFINITION. Which commands have an encoding: the operand limits of format F (30_encoding.md R51). -/

namespace Sys2Proof

/-- The operands of a format F command: `1 ≤ N ≤ 16` and `D[15:N] = 0` (30_encoding.md R51). -/
abbrev FeedOperands (n : Nat) (d : Half) : Prop :=
  1 ≤ n ∧ n ≤ 16 ∧ d >>> n = 0#16

/-- A command that some command word stands for. Formats Z and R have no operand that could be out of range: the
register of RD is one of the nine of `Reg` (30_encoding.md R50, R52). -/
abbrev Instr.WellFormed : Instr → Prop
  | .nop => True
  | .crcClr => True
  | .crcFeed n d => FeedOperands n d
  | .faTail => True
  | .menc n d => FeedOperands n d
  | .rxClr => True
  | .mdFeed n d => FeedOperands n d
  | .fdFeed n d => FeedOperands n d
  | .rxEnd => True
  | .rd _ => True
  | .srst => True

end Sys2Proof
end

