-- ==== Sys2Proof/Decode.lean ====
section
/-! DEFINITION. The decoder, total on every 32-bit word and rejecting by name, and the encoder after it
(30_encoding.md). -/

namespace Sys2Proof

/-- The four fields of every command word (30_encoding.md R49). -/
def opField (w : Word) : BitVec 8 := w.extractLsb' 24 8
/-- RSV, bits 23:21 (30_encoding.md R49). -/
def rsvField (w : Word) : BitVec 3 := w.extractLsb' 21 3
/-- N, bits 20:16 (30_encoding.md R49). -/
def nField (w : Word) : BitVec 5 := w.extractLsb' 16 5
/-- D, bits 15:0 (30_encoding.md R49). -/
def dField (w : Word) : Half := w.extractLsb' 0 16

/-- The legality check as 30_encoding.md R54 writes it. The decoder below does not call it: that the two agree is a
claim about the model. -/
def legal (w : Word) : Bool :=
  let op := (opField w).toNat
  let n := (nField w).toNat
  let d := dField w
  if rsvField w ≠ 0#3 then false
  else if op ∈ [0x00, 0x01, 0x03, 0x08, 0x0B, 0x1F] then decide (n = 0 ∧ d = 0#16)
  else if op ∈ [0x02, 0x04, 0x09, 0x0A] then decide (1 ≤ n ∧ n ≤ 16 ∧ (n = 16 ∨ d >>> n = 0#16))
  else if op = 0x10 then decide (n = 0 ∧ d >>> 5 = 0#16 ∧ (d.setWidth 5).toNat ≤ 8)
  else false

/-- Why a word is no command: the reserved spaces of 30_encoding.md R56. Every reason has the one response ILLEGAL
(43_control.md R108); the names and the order in which they are tested are the model's (log entry 10). -/
inductive Illegal where
  /-- OP is not listed in the opcode map (R53). -/
  | reservedOpcode
  /-- RSV is not 0. -/
  | reservedBits
  /-- N is out of the format's range. -/
  | countOutOfRange
  /-- A bit of D that the format does not use is 1. -/
  | unusedDataBits
  /-- RD's index is 9 to 31. -/
  | reservedRegister
deriving DecidableEq, Repr

/-- Format Z: the whole word is `OP << 24` (30_encoding.md R50). -/
def decodeZ (i : Instr) (w : Word) : Except Illegal Instr :=
  if rsvField w ≠ 0#3 then .error .reservedBits
  else if nField w ≠ 0#5 then .error .countOutOfRange
  else if dField w ≠ 0#16 then .error .unusedDataBits
  else .ok i

/-- Format F: N counts 1 to 16 bits and `D[15:N] = 0` (30_encoding.md R51). -/
def decodeF (mk : Nat → Half → Instr) (w : Word) : Except Illegal Instr :=
  let n := (nField w).toNat
  if rsvField w ≠ 0#3 then .error .reservedBits
  else if n = 0 ∨ 16 < n then .error .countOutOfRange
  else if dField w >>> n ≠ 0#16 then .error .unusedDataBits
  else .ok (mk n (dField w))

/-- The register of an RD index (10_state.md R30). -/
def regOfIndex (r : Nat) : Option Reg :=
  match r with
  | 0 => some .cfg
  | 1 => some .crcstat
  | 2 => some .rxstat
  | 3 => some .rxpidx
  | 4 => some .rxepos
  | 5 => some .rxfcnt
  | 6 => some .rxtail
  | 7 => some .rxcrc
  | 8 => some .rxvw
  | _ => none

/-- Format R: the register index is `D[4:0]` (30_encoding.md R52). -/
def decodeR (w : Word) : Except Illegal Instr :=
  if rsvField w ≠ 0#3 then .error .reservedBits
  else if nField w ≠ 0#5 then .error .countOutOfRange
  else if (dField w).extractLsb' 5 11 ≠ 0#11 then .error .unusedDataBits
  else match regOfIndex ((dField w).extractLsb' 0 5).toNat with
    | some r => .ok (.rd r)
    | none => .error .reservedRegister

/-- The decoder: every word is one command or illegal by name (30_encoding.md R53 to R58). -/
def decode (w : Word) : Except Illegal Instr :=
  match (opField w).toNat with
  | 0x00 => decodeZ .nop w
  | 0x01 => decodeZ .crcClr w
  | 0x02 => decodeF .crcFeed w
  | 0x03 => decodeZ .faTail w
  | 0x04 => decodeF .menc w
  | 0x08 => decodeZ .rxClr w
  | 0x09 => decodeF .mdFeed w
  | 0x0A => decodeF .fdFeed w
  | 0x0B => decodeZ .rxEnd w
  | 0x10 => decodeR w
  | 0x1F => decodeZ .srst w
  | _ => .error .reservedOpcode

/-- The instruction the decoder reads from a row's bits, numbered as spec/opcode_table.json numbers them. Every
command is one 32-bit word (30_encoding.md R48), and a word has no byte order (20_memory.md R40). -/
def decodeTableWord (nbits w : Nat) : Option Instr :=
  match decode (BitVec.ofNat 32 (w % 2 ^ nbits)) with
  | .ok i => some i
  | .error _ => none

/-! ## The encoder -/

/-- The OP field of a command (30_encoding.md R53). -/
def opcode : Instr → BitVec 8
  | .nop => 0x00#8
  | .crcClr => 0x01#8
  | .crcFeed _ _ => 0x02#8
  | .faTail => 0x03#8
  | .menc _ _ => 0x04#8
  | .rxClr => 0x08#8
  | .mdFeed _ _ => 0x09#8
  | .fdFeed _ _ => 0x0A#8
  | .rxEnd => 0x0B#8
  | .rd _ => 0x10#8
  | .srst => 0x1F#8

/-- The index of a register (10_state.md R30). -/
def indexOfReg : Reg → Half
  | .cfg => 0#16
  | .crcstat => 1#16
  | .rxstat => 2#16
  | .rxpidx => 3#16
  | .rxepos => 4#16
  | .rxfcnt => 5#16
  | .rxtail => 6#16
  | .rxcrc => 7#16
  | .rxvw => 8#16

/-- The N field of a command (30_encoding.md R50 to R52). -/
def countOf : Instr → BitVec 5
  | .crcFeed n _ => BitVec.ofNat 5 n
  | .menc n _ => BitVec.ofNat 5 n
  | .mdFeed n _ => BitVec.ofNat 5 n
  | .fdFeed n _ => BitVec.ofNat 5 n
  | .nop => 0#5
  | .crcClr => 0#5
  | .faTail => 0#5
  | .rxClr => 0#5
  | .rxEnd => 0#5
  | .rd _ => 0#5
  | .srst => 0#5

/-- The D field of a command (30_encoding.md R50 to R52). -/
def dataOf : Instr → Half
  | .crcFeed _ d => d
  | .menc _ d => d
  | .mdFeed _ d => d
  | .fdFeed _ d => d
  | .rd r => indexOfReg r
  | .nop => 0#16
  | .crcClr => 0#16
  | .faTail => 0#16
  | .rxClr => 0#16
  | .rxEnd => 0#16
  | .srst => 0#16

/-- The word of a command: `{OP, RSV = 0, N, D}` (30_encoding.md R49). -/
def encode (i : Instr) : Word :=
  opcode i ++ 0#3 ++ countOf i ++ dataOf i

end Sys2Proof
end

