-- ==== Sys2Proof/Config.lean ====
section
/-! DEFINITION. The constants the hardware fixes (00_scope.md R5, R6) and the parameters the spec leaves open on
the host's side (49_host.md R115, R124). The core itself has no open value, so this file declares no free value. -/

namespace Sys2Proof.Config

/-- POLY, the LFSR's feedback polynomial (00_scope.md R5). -/
def poly : Half := 0x1021#16

/-- CRC_W (00_scope.md R5). -/
def crcWidth : Nat := 16

/-- The least number of frame bits that can be verified: one data bit and 16 CRC bits (00_scope.md R5). -/
def minFrame : Nat := 17

/-- Where the 32-bit counters saturate (00_scope.md R6). -/
def counterMax : Word := 0xFFFFFFFF#32

/-- RX_BAD_CHAR_POLICY: what the receiver's parser does with a byte that is neither '0' nor '1' (49_host.md R115).
The spec leaves the choice open. -/
inductive BadCharPolicy where
  | structural
  | detected
  | skip
deriving DecidableEq, Repr, Inhabited

/-- The exit statuses of a sender that stops before the payload is sent. The spec says of the input errors that the exit is
not 0 and gives no value (49_host.md R119), so each field is ONE LESS than the status: every status but 0 has a value here (log entry 17). -/
structure SenderExits where
  nonBinary : Nat
  emptyData : Nat
  invalidCount : Nat
  coreRefused : Nat
  writeError : Nat
deriving DecidableEq, Repr

/-- The host parameters the spec leaves open (49_host.md R115, R119, R124; 93_implementation_defined.md U9 to U12).
A claim about the host holds for every value, or names the one it assumes. -/
structure HostParams where
  badChar : BadCharPolicy
  posSingle : Nat
  posDoubleA : Nat
  posDoubleB : Nat
  posBurst8 : Nat
  posBurst17 : Nat
  posBurst22 : Nat
  doubleDistinct : Bool
  cliRejectsEvenK : Bool
  senderExits : SenderExits
deriving DecidableEq, Repr

/-- The parameters are admissible for a frame of `len` bits: single and double positions lie in the frame, and the
two positions differ when DOUBLE_DISTINCT holds; burst positions are any naturals (U10, U11). -/
abbrev HostParams.Admissible (p : HostParams) (len : Nat) : Prop :=
  p.posSingle < len ∧ p.posDoubleA < len ∧ p.posDoubleB < len ∧
    (p.doubleDistinct = true → p.posDoubleA ≠ p.posDoubleB)

end Sys2Proof.Config
end

