-- ==== Sys2Proof/Machine/State.lean ====
section
/-! DEFINITION. The state of the codec core: the elements of 10_state.md R18, and the host's moves still to come. -/

namespace Sys2Proof.Machine

/-- The response codes (60_exceptions.md R128); two bits, every code named. -/
inductive RCode where
  | ok
  | illegal
  | empty
  | closed
deriving DecidableEq, Repr

/-- The verdicts (60_exceptions.md R131). Codes 6 to 15 are never produced, so the type has no value for them
(93_implementation_defined.md U2; log entry 6). -/
inductive Verdict where
  | none
  | matched
  | mismatch
  | tooShort
  | oddLength
  | invalidPair
deriving DecidableEq, Repr

/-- What the host can do to the core (49_host.md R111). Reading state is issuing RD. -/
inductive HostMove where
  /-- The host issues a command word, legal or not. -/
  | command (w : Word)
  /-- The host asserts the reset input; `inFlight` is the command it catches in flight, if any
  (70_reset_and_hazards.md R144, R145). -/
  | reset (inFlight : Option Word)
deriving DecidableEq, Repr

/-- The core's state (10_state.md R18). `port` is the model's own field: the host's moves the core has not taken yet,
oldest first (log entry 1). The constant CFG has no storage (10_state.md R31). -/
structure State where
  /-- CRC: the LFSR of the CRC engine (R19). -/
  crc : Half
  /-- CNE: a data bit was fed since the last clear (R20). -/
  cne : Bool
  /-- HV: half a pair is held (R21). -/
  hv : Bool
  /-- H: the held half (R21). -/
  h : Bool
  /-- PIDX: complete pairs received (R22). -/
  pidx : Word
  /-- EV: an invalid pair was seen (R23). -/
  ev : Bool
  /-- EPOS: the first invalid pair's index (R23). -/
  epos : Word
  /-- EOBS: the first invalid pair, first half in bit 1 (R23). -/
  eobs : BitVec 2
  /-- TAIL: the delay line (R24). -/
  tail : Half
  /-- RXCRC: the LFSR of the frame disassembler (R25). -/
  rxcrc : Half
  /-- FCNT: frame bits pushed (R26). -/
  fcnt : Word
  /-- DONE: the receive sequence was ended (R27). -/
  done : Bool
  /-- VERD: the stored verdict (R28). -/
  verd : Verdict
  /-- RDATA: the response data (R33). -/
  rdata : Word
  /-- RCODE: the response code (R33). -/
  rcode : RCode
  /-- The host's moves still to come; not an element of the spec. -/
  port : List HostMove
deriving DecidableEq, Repr

/-- The reset state (10_state.md R35), with nothing issued by the host yet. -/
def State.reset : State where
  crc := 0x0000#16
  cne := false
  hv := false
  h := false
  pidx := 0#32
  ev := false
  epos := 0#32
  eobs := 0#2
  tail := 0x0000#16
  rxcrc := 0x0000#16
  fcnt := 0#32
  done := false
  verd := .none
  rdata := 0#32
  rcode := .ok
  port := []

/-- The reasons the core stops with a fault: there are none. The core has no exception, trap or fault mechanism, and
a step has no fault outcome (60_exceptions.md R127). -/
inductive Fault where
deriving DecidableEq, Repr

/-- The reasons the model has no meaning for a command. -/
inductive Refusal where
  /-- Raised by an arm of `exec` for a command that has no meaning yet: safe. No arm raises it. -/
  | notModelled (mnemonic : String)
deriving DecidableEq, Repr

/-- The outcome of a command. -/
abbrev Result := Host.Outcome State Fault Refusal

end Sys2Proof.Machine
end

