-- ==== Sys2Proof/Machine/Flags.lean ====
section
/-! DEFINITION. The status fields and register layouts the host observes (10_state.md R29 to R32, 60_exceptions.md
R128, R131, R134; 41_manchester.md R80). -/

namespace Sys2Proof.Machine

/-- The number of a response code (60_exceptions.md R128). -/
def RCode.code : RCode → BitVec 2
  | .ok => 0#2
  | .illegal => 1#2
  | .empty => 2#2
  | .closed => 3#2

/-- The number of a verdict (60_exceptions.md R131). -/
def Verdict.code : Verdict → BitVec 4
  | .none => 0#4
  | .matched => 1#4
  | .mismatch => 2#4
  | .tooShort => 3#4
  | .oddLength => 4#4
  | .invalidPair => 5#4

/-- DET: the verdict is a detected error, `VERD ∈ {2, 3, 4, 5}` (60_exceptions.md R134). -/
def Verdict.det : Verdict → Bool
  | .none => false
  | .matched => false
  | .mismatch => true
  | .tooShort => true
  | .oddLength => true
  | .invalidPair => true

/-- OBS: EOBS if the verdict is INVALID_PAIR, else 0 (10_state.md R32). -/
def State.obs (s : State) : BitVec 2 :=
  if s.verd = .invalidPair then s.eobs else 0#2

/-- The verdict word `VW = zext_32({OBS, DET, VERD})` (10_state.md R32). -/
def State.vw (s : State) : Word :=
  (s.obs ++ BitVec.ofBool s.verd.det ++ s.verd.code : BitVec (2 + 1 + 4)).setWidth 32

/-- CFG: POLY in bits 15:0, CRC_W in bits 20:16, hardwired (10_state.md R31). -/
def cfgWord : Word :=
  0#11 ++ BitVec.ofNat 5 Config.crcWidth ++ Config.poly

/-- CRCSTAT: `{15'b0, CNE, CRC}` (10_state.md R32). -/
def State.crcstat (s : State) : Word :=
  0#15 ++ BitVec.ofBool s.cne ++ s.crc

/-- RXSTAT: `{VERD, DONE, EOBS, EV, H, HV}` in bits 9:0 (10_state.md R32). -/
def State.rxstat (s : State) : Word :=
  (s.verd.code ++ BitVec.ofBool s.done ++ s.eobs ++ BitVec.ofBool s.ev ++ BitVec.ofBool s.h ++ BitVec.ofBool s.hv :
    BitVec (4 + 1 + 2 + 1 + 1 + 1)).setWidth 32

/-- The RDATA of MD.FEED: `{EV, HV, 0b00, k[3:0], 16'b0, out[7:0]}` (41_manchester.md R80). -/
def mdData (ev hv : Bool) (k : BitVec 4) (out : BitVec 8) : Word :=
  BitVec.ofBool ev ++ BitVec.ofBool hv ++ 0#2 ++ k ++ 0#16 ++ out

end Sys2Proof.Machine
end

