-- ==== Sys2Proof/Machine/Operands.lean ====
section
/-! DEFINITION. How a command carries a bit sequence: the operand of format F and its inverses
(30_encoding.md R51, R60; 00_scope.md R10). -/

namespace Sys2Proof.Machine

/-- `seqF(N, D) = [D[N-1], …, D[0]]`: the sequence a format F command carries (30_encoding.md R51). -/
def seqF : Nat → Half → BitSeq
  | 0, _ => []
  | n + 1, d => d.getLsbD n :: seqF n d

/-- The value of a sequence read MSB first (00_scope.md R10). -/
def msbVal (s : BitSeq) : Nat :=
  s.foldl (fun v b => 2 * v + b.toNat) 0

/-- `bits16(v)`: the 16 bits of `v`, MSB first (00_scope.md R10). -/
def bits16 (v : Half) : BitSeq := seqF 16 v

/-- `val16(s)`: the 16-bit value of a sequence of 16 bits (00_scope.md R10). -/
def val16 (s : BitSeq) : Half := BitVec.ofNat 16 (msbVal s)

/-- The `k` low bits of a word, MSB first: how the host reads a sequence out of RDATA (20_memory.md R39). -/
def lowBits : Nat → Word → BitSeq
  | 0, _ => []
  | k + 1, w => w.getLsbD k :: lowBits k w

/-- `chunks` with fuel for the recursion. -/
def chunksFuel : Nat → BitSeq → List BitSeq
  | 0, _ => []
  | _ + 1, [] => []
  | f + 1, b :: s => (b :: s).take 16 :: chunksFuel f ((b :: s).drop 16)

/-- The chunks a pseudo-command cuts a sequence into: 16 bits each, except possibly the last (30_encoding.md R60). -/
def chunks (s : BitSeq) : List BitSeq := chunksFuel s.length s

end Sys2Proof.Machine
end

