-- ==== Sys2Proof/Machine/Ops.lean ====
section
/-! DEFINITION. The named operations the commands share. The core has no exception entry and no return from one
(60_exceptions.md R127, R136, R137): a command that is not carried out goes through `State.rejectCommand`. -/

namespace Sys2Proof.Machine

/-- `satinc(x)`: an increment that saturates at 0xFFFFFFFF (00_scope.md R12). -/
def satinc (x : Word) : Word :=
  if x = Config.counterMax then x else x + 1#32

/-- `crc_step(r, b)`: one step of the LFSR (40_crc16.md R63). -/
def crcStep (r : Half) (b : Bool) : Half :=
  let m := r.getLsbD 15
  let r' := r <<< 1
  if (m ^^ b) = true then r' ^^^ Config.poly else r'

/-- The LFSR steps of a sequence, from register `r` (40_crc16.md R64, R67). -/
def crcRun (r : Half) (s : BitSeq) : Half := s.foldl crcStep r

/-- `respond(code, data)`: write the response registers (00_scope.md R12, 10_state.md R33). -/
def State.respond (code : RCode) (data : Word) (s : State) : State :=
  { s with rcode := code, rdata := data }

/-- A command that is not carried out: an error code, RDATA 0, and every other element as it was
(60_exceptions.md R128, R136). -/
def State.rejectCommand (code : RCode) (s : State) : State :=
  s.respond code 0#32

/-- The clear of the CRC engine (40_crc16.md R66). -/
def State.clearCrc (s : State) : State :=
  { s with crc := 0x0000#16, cne := false }

/-- CRC.FEED's write of the CRC engine: one LFSR step per bit, CNE set (40_crc16.md R67). -/
def State.feedCrc (bits : BitSeq) (s : State) : State :=
  { s with crc := crcRun s.crc bits, cne := true }

/-- The clear of the receive channel (42_frame.md R96). -/
def State.clearRx (s : State) : State :=
  { s with
    hv := false, h := false, pidx := 0#32
    ev := false, epos := 0#32, eobs := 0#2
    tail := 0x0000#16, rxcrc := 0x0000#16, fcnt := 0#32
    done := false, verd := .none }

/-- `md_step(e)`: the decoder's bit step, with the bit it decodes, if any (41_manchester.md R79). -/
def mdStep (e : Bool) (s : State) : State × Option Bool :=
  if s.hv = false then
    ({ s with h := e, hv := true }, none)
  else
    let p : BitVec 2 := BitVec.ofBool s.h ++ BitVec.ofBool e
    let s' : State := { s with hv := false, h := false, pidx := satinc s.pidx }
    if s.ev = true then (s', none)
    else if p = 0b10#2 then (s', some false)
    else if p = 0b01#2 then (s', some true)
    else ({ s' with ev := true, epos := s.pidx, eobs := p }, none)

/-- `fd_push(f)`: the disassembler's bit step (42_frame.md R94). -/
def fdPush (f : Bool) (s : State) : State :=
  { s with
    rxcrc := if 16#32 ≤ s.fcnt then crcStep s.rxcrc (s.tail.getLsbD 15) else s.rxcrc
    tail := (s.tail <<< 1) ||| (BitVec.ofBool f).setWidth 16
    fcnt := satinc s.fcnt }

/-- The bit loop of FD.FEED (42_frame.md R95). -/
def fdRun : BitSeq → State → State
  | [], s => s
  | f :: fs, s => fdRun fs (fdPush f s)

/-- The bit loop of MD.FEED: each encoded bit through `mdStep`, each decoded bit into `fdPush`; the second component
is the decoded bits in order, whose number is the loop's `k` and whose value its `out` (41_manchester.md R80). -/
def mdRun : BitSeq → State → State × BitSeq
  | [], s => (s, [])
  | e :: es, s =>
    match mdStep e s with
    | (s', none) => mdRun es s'
    | (s', some b) =>
      let r := mdRun es (fdPush b s')
      (r.1, b :: r.2)

/-- `verdict()`: the first test that applies gives the verdict (42_frame.md R98, R99). -/
def State.verdict (s : State) : Verdict :=
  if s.hv = true then .oddLength
  else if s.ev = true then .invalidPair
  else if s.fcnt.toNat < Config.minFrame then .tooShort
  else if s.tail = s.rxcrc then .matched
  else .mismatch

/-- Ending the receive sequence: the verdict is stored once (42_frame.md R97). -/
def State.endRx (s : State) : State :=
  if s.done = false then { s with verd := s.verdict, done := true } else s

/-- `REG(r)`: the register map (10_state.md R30). -/
def State.readReg (s : State) : Reg → Word
  | .cfg => cfgWord
  | .crcstat => s.crcstat
  | .rxstat => s.rxstat
  | .rxpidx => s.pidx
  | .rxepos => s.epos
  | .rxfcnt => s.fcnt
  | .rxtail => s.tail.setWidth 32
  | .rxcrc => s.rxcrc.setWidth 32
  | .rxvw => s.vw

/-- MENC's loop: each bit appends its pair, 0 as 0b10 and 1 as 0b01 (41_manchester.md R77). -/
def mencWord (bits : BitSeq) : Word :=
  bits.foldl (fun out b => (out <<< 2) ||| (if b = false then 0b10#32 else 0b01#32)) 0#32

end Sys2Proof.Machine
end

