-- ==== Sys2Proof/Machine/Control.lean ====
section
/-! DEFINITION. The control commands and illegal words (43_control.md). -/

namespace Sys2Proof.Machine

/-- NOP (43_control.md R105). -/
def execNop (s : State) : Result :=
  .next (s.respond .ok 0#32)

/-- RD r: the register as the state before the command has it; no read side effect (43_control.md R106). -/
def execRd (r : Reg) (s : State) : Result :=
  .next (s.respond .ok (s.readReg r))

/-- SRST: every element to its reset value (43_control.md R107). The host's later moves stay on the port. -/
def execSrst (s : State) : Result :=
  .next (s.clearCrc.clearRx.respond .ok 0#32)

/-- An illegal word: (ILLEGAL, 0) and no other effect (43_control.md R108, 30_encoding.md R55). -/
def execIllegal (s : State) : Result :=
  .next (s.rejectCommand .illegal)

/-- The reset input: every element to its reset value; the command it catches in flight has no effect and no response
(70_reset_and_hazards.md R144, R145). The host's later moves stay on the port (log entry 3). -/
def hostReset (_inFlight : Option Word) (s : State) : Result :=
  .next { State.reset with port := s.port }

end Sys2Proof.Machine
end

