-- ==== Sys2Proof/Machine/CrcEngine.lean ====
section
/-! DEFINITION. The CRC engine's commands (40_crc16.md). -/

namespace Sys2Proof.Machine

/-- CRC.CLR (40_crc16.md R66). -/
def execCrcClr (s : State) : Result :=
  .next (s.clearCrc.respond .ok 0#32)

/-- CRC.FEED n, d: answers the register after the command (40_crc16.md R67). -/
def execCrcFeed (n : Nat) (d : Half) (s : State) : Result :=
  let s' := s.feedCrc (seqF n d)
  .next (s'.respond .ok (s'.crc.setWidth 32))

end Sys2Proof.Machine
end

