-- ==== Sys2Proof/Machine/Frame.lean ====
section
/-! DEFINITION. The frame assembler's and disassembler's commands (42_frame.md). -/

namespace Sys2Proof.Machine

/-- FA.TAIL: the frame's CRC field, or EMPTY (42_frame.md R90). -/
def execFaTail (s : State) : Result :=
  if s.cne = false then .next (s.rejectCommand .empty)
  else .next (s.respond .ok (s.crc.setWidth 32))

/-- FD.FEED n, d: answers FCNT after the command, closed after RX.END (42_frame.md R95). -/
def execFdFeed (n : Nat) (d : Half) (s : State) : Result :=
  if s.done = true then .next (s.rejectCommand .closed)
  else
    let s' := fdRun (seqF n d) s
    .next (s'.respond .ok s'.fcnt)

/-- RX.CLR (42_frame.md R96). -/
def execRxClr (s : State) : Result :=
  .next (s.clearRx.respond .ok 0#32)

/-- RX.END: answers the verdict word (42_frame.md R97). -/
def execRxEnd (s : State) : Result :=
  let s' := s.endRx
  .next (s'.respond .ok s'.vw)

end Sys2Proof.Machine
end

