-- ==== Sys2Proof/Machine/Manchester.lean ====
section
/-! DEFINITION. The Manchester encoder's and decoder's commands (41_manchester.md). -/

namespace Sys2Proof.Machine

/-- MENC n, d: reads no state (41_manchester.md R77). -/
def execMenc (n : Nat) (d : Half) (s : State) : Result :=
  .next (s.respond .ok (mencWord (seqF n d)))

/-- MD.FEED n, d (41_manchester.md R80), closed after RX.END (R81). -/
def execMdFeed (n : Nat) (d : Half) (s : State) : Result :=
  if s.done = true then .next (s.rejectCommand .closed)
  else
    let r := mdRun (seqF n d) s
    .next (r.1.respond .ok
      (mdData r.1.ev r.1.hv (BitVec.ofNat 4 r.2.length) (BitVec.ofNat 8 (msbVal r.2))))

end Sys2Proof.Machine
end

