-- ==== Sys2Proof/Machine/Dispatch.lean ====
section
/-! DEFINITION. One arm per command (30_encoding.md R53). -/

namespace Sys2Proof.Machine

def exec (i : Instr) (s : State) : Host.Outcome State Fault Refusal :=
  match i with
  | .nop => Sys2Proof.Machine.execNop s
  | .crcClr => Sys2Proof.Machine.execCrcClr s
  | .crcFeed n d => Sys2Proof.Machine.execCrcFeed n d s
  | .faTail => Sys2Proof.Machine.execFaTail s
  | .menc n d => Sys2Proof.Machine.execMenc n d s
  | .rxClr => Sys2Proof.Machine.execRxClr s
  | .mdFeed n d => Sys2Proof.Machine.execMdFeed n d s
  | .fdFeed n d => Sys2Proof.Machine.execFdFeed n d s
  | .rxEnd => Sys2Proof.Machine.execRxEnd s
  | .rd r => Sys2Proof.Machine.execRd r s
  | .srst => Sys2Proof.Machine.execSrst s

end Sys2Proof.Machine
end

