-- ==== Sys2Proof/Machine/Port.lean ====
section
/-! DEFINITION. The command port: what one word does to the core, and what the host collects (43_control.md R108,
49_host.md R111, 10_state.md R33). -/

namespace Sys2Proof.Machine

/-- The core accepts a word: the command it decodes to, or an illegal word's response. Legality is decided from the
word alone, before any state is read (30_encoding.md R54, R55; 60_exceptions.md R130). -/
def acceptWord (w : Word) (s : State) : Result :=
  match decode w with
  | .ok i => exec i s
  | .error _ => execIllegal s

/-- What happens when the host makes a move (49_host.md R111). -/
def takeMove (m : HostMove) (s : State) : Result :=
  match m with
  | .command w => acceptWord w s
  | .reset inFlight => hostReset inFlight s

/-- A response: the pair the port gives back for a command (10_state.md R33). -/
structure Response where
  code : RCode
  data : Word
deriving DecidableEq, Repr

/-- The response the port holds (10_state.md R33). -/
def State.response (s : State) : Response := ⟨s.rcode, s.rdata⟩

/-- The host issues words one after another, each after the response of the one before, and collects the responses
(49_host.md R111, 20_memory.md R44). The core never faults and refuses nothing, so the other outcomes end the list. -/
def transcript : List Word → State → State × List Response
  | [], s => (s, [])
  | w :: ws, s =>
    match acceptWord w s with
    | .next s' =>
      let r := transcript ws s'
      (r.1, s'.response :: r.2)
    | .fault _ => (s, [])
    | .refused _ => (s, [])

end Sys2Proof.Machine
end

