-- ==== Sys2Proof/Machine/Step.lean ====
section
/-! DEFINITION. One step of the core: it takes the host's oldest move (10_state.md R15, 20_memory.md R44). -/

namespace Sys2Proof.Machine

/-- One step. With no move on the port the state does not change: it changes only when a command completes or the
reset input is asserted (10_state.md R15; log entry 2). -/
def step (s : State) : Host.Outcome State Fault Refusal :=
  match s.port with
  | [] => .next s
  | m :: rest => takeMove m { s with port := rest }

/-- The word becomes the host's next move (log entry 1): the core fetches nothing (10_state.md R17), so this is where
its next command comes from. -/
def State.withFetchWord (s : State) (nbits w : Nat) : State :=
  { s with port := .command (BitVec.ofNat 32 (w % 2 ^ nbits)) :: s.port }

end Sys2Proof.Machine
end

