-- ==== Sys2Proof/Machine/Asm.lean ====
section
/-! DEFINITION. Pseudo-commands and the assembler's syntax (30_encoding.md R59, R60). -/

namespace Sys2Proof.Asm

open Sys2Proof.Machine

/-! ## Pseudo-commands -/

/-- A format F command that carries a sequence of 1 to 16 bits (30_encoding.md R51, R59). -/
def feedSeq (mk : Nat → Half → Instr) (c : BitSeq) : Instr := mk c.length (val16 c)

/-- The pseudo-commands CRC.BIT, MENC.BIT, MD.BIT and FD.BIT (30_encoding.md R60). -/
def feedBit (mk : Nat → Half → Instr) (b : Bool) : Instr := mk 1 (BitVec.ofNat 16 b.toNat)

/-- The pseudo-commands CRC.FEEDS, MENC.S, MD.FEEDS and FD.FEEDS: the sequence cut into chunks of 16 bits, in order
(30_encoding.md R60). -/
def feedAll (mk : Nat → Half → Instr) (s : BitSeq) : List Instr := (chunks s).map (feedSeq mk)

/-! ## The text of one line -/

/-- Mnemonics are case-insensitive (30_encoding.md R59). -/
def upper (c : Char) : Char := if 'a' ≤ c ∧ c ≤ 'z' then Char.ofNat (c.toNat - 32) else c

/-- Blanks between the parts of a line (log entry 16). -/
def isBlank (c : Char) : Bool := c == ' ' || c == '\t'

/-- `;` starts a comment (30_encoding.md R59). -/
def stripComment (l : List Char) : List Char := l.takeWhile (fun c => c != ';')

/-- The text without blanks at either end. -/
def trim (l : List Char) : List Char :=
  ((l.dropWhile isBlank).reverse.dropWhile isBlank).reverse

/-- The value of a digit, decimal or hexadecimal. DESIGN CHOICE: the digits a to f may be written in either case
(log entry 16). -/
def digit (c : Char) : Option Nat :=
  if '0' ≤ c ∧ c ≤ '9' then some (c.toNat - '0'.toNat)
  else if 'a' ≤ c ∧ c ≤ 'f' then some (c.toNat - 'a'.toNat + 10)
  else if 'A' ≤ c ∧ c ≤ 'F' then some (c.toNat - 'A'.toNat + 10)
  else none

/-- The digits of a number in a base, most significant first, after the value read so far. -/
def digits (base : Nat) : Nat → List Char → Option Nat
  | v, [] => some v
  | v, c :: cs =>
    match digit c with
    | some x => if x < base then digits base (base * v + x) cs else none
    | none => none

/-- At least one digit in the base. -/
def number (base : Nat) : List Char → Option Nat
  | [] => none
  | c :: cs => digits base 0 (c :: cs)

/-- A number in decimal, `0x` hex or `0b` binary (30_encoding.md R59). -/
def anyNumber : List Char → Option Nat
  | '0' :: 'x' :: cs => number 16 cs
  | '0' :: 'b' :: cs => number 2 cs
  | cs => number 10 cs

/-- The bits of a string of the characters `0` and `1` (30_encoding.md R59). -/
def bitChars : List Char → Option BitSeq
  | [] => some []
  | '0' :: cs => (bitChars cs).map (fun s => false :: s)
  | '1' :: cs => (bitChars cs).map (fun s => true :: s)
  | _ :: _ => none

/-- A quoted bit string `"b…"` (30_encoding.md R59). -/
def quoted : List Char → Option BitSeq
  | '"' :: cs =>
    match cs.reverse with
    | '"' :: rs => bitChars rs.reverse
    | _ => none
  | _ => none

/-- No operand may follow (format Z). -/
def operandZ (i : Instr) (rest : List Char) : Option (List Instr) :=
  if rest = [] then some [i] else none

/-- `n, d` with `1 ≤ n ≤ 16` and `d < 2^n`, or a quoted string of 1 to 16 bits (format F, 30_encoding.md R59). -/
def operandF (mk : Nat → Half → Instr) (rest : List Char) : Option (List Instr) :=
  match rest with
  | '"' :: _ =>
    match quoted rest with
    | some s => if 1 ≤ s.length ∧ s.length ≤ 16 then some [feedSeq mk s] else none
    | none => none
  | _ =>
    let left := trim (rest.takeWhile (fun c => c != ','))
    let right := rest.dropWhile (fun c => c != ',')
    match number 10 left, anyNumber (trim (right.drop 1)) with
    | some n, some d =>
      if 1 ≤ n ∧ n ≤ 16 ∧ d < 2 ^ n then some [mk n (BitVec.ofNat 16 d)] else none
    | _, _ => none

/-- The register names (10_state.md R30, 30_encoding.md R59). -/
def regName (cs : List Char) : Option Reg :=
  if cs = "CFG".toList then some .cfg
  else if cs = "CRCSTAT".toList then some .crcstat
  else if cs = "RXSTAT".toList then some .rxstat
  else if cs = "RXPIDX".toList then some .rxpidx
  else if cs = "RXEPOS".toList then some .rxepos
  else if cs = "RXFCNT".toList then some .rxfcnt
  else if cs = "RXTAIL".toList then some .rxtail
  else if cs = "RXCRC".toList then some .rxcrc
  else if cs = "RXVW".toList then some .rxvw
  else none

/-- A register index 0 to 8 or a register name (format R, 30_encoding.md R59). DESIGN CHOICE: the index is read in decimal
only; the spec gives no number base for it (log entry 16). -/
def operandR (rest : List Char) : Option (List Instr) :=
  match regName rest with
  | some r => some [.rd r]
  | none =>
    match number 10 rest with
    | some r => (regOfIndex r).map (fun x => [.rd x])
    | none => none

/-- One bit (the BIT pseudo-commands, 30_encoding.md R60). DESIGN CHOICE: it is written as the one character `0` or `1`;
the spec says only that it is a bit (log entry 16). -/
def operandBit (mk : Nat → Half → Instr) (rest : List Char) : Option (List Instr) :=
  match rest with
  | ['0'] => some [feedBit mk false]
  | ['1'] => some [feedBit mk true]
  | _ => none

/-- A quoted string of any length from 1 (the FEEDS pseudo-commands and MENC.S, 30_encoding.md R60). -/
def operandSeq (mk : Nat → Half → Instr) (rest : List Char) : Option (List Instr) :=
  match quoted rest with
  | some s => if s = [] then none else some (feedAll mk s)
  | none => none

/-- The operand of a mnemonic in capitals (30_encoding.md R59, R60). -/
def operands (m rest : List Char) : Option (List Instr) :=
  if m = "NOP".toList then operandZ .nop rest
  else if m = "CRC.CLR".toList then operandZ .crcClr rest
  else if m = "CRC.FEED".toList then operandF .crcFeed rest
  else if m = "FA.TAIL".toList then operandZ .faTail rest
  else if m = "MENC".toList then operandF .menc rest
  else if m = "RX.CLR".toList then operandZ .rxClr rest
  else if m = "MD.FEED".toList then operandF .mdFeed rest
  else if m = "FD.FEED".toList then operandF .fdFeed rest
  else if m = "RX.END".toList then operandZ .rxEnd rest
  else if m = "RD".toList then operandR rest
  else if m = "SRST".toList then operandZ .srst rest
  else if m = "CRC.BIT".toList then operandBit .crcFeed rest
  else if m = "MENC.BIT".toList then operandBit .menc rest
  else if m = "MD.BIT".toList then operandBit .mdFeed rest
  else if m = "FD.BIT".toList then operandBit .fdFeed rest
  else if m = "CRC.FEEDS".toList then operandSeq .crcFeed rest
  else if m = "MENC.S".toList then operandSeq .menc rest
  else if m = "MD.FEEDS".toList then operandSeq .mdFeed rest
  else if m = "FD.FEEDS".toList then operandSeq .fdFeed rest
  else none

/-- One line of assembler text: no command, one command, or a pseudo-command's expansion; `none` where the text is no
line of the syntax (30_encoding.md R59, R60). DESIGN CHOICE: a line that is blank or holds a comment only is a line with no
command, of which the spec says nothing (log entry 16). -/
def assembleLine (line : List Char) : Option (List Instr) :=
  match trim (stripComment line) with
  | [] => some []
  | c :: cs =>
    let m := (c :: cs).takeWhile (fun x => !isBlank x)
    operands (m.map upper) (trim ((c :: cs).dropWhile (fun x => !isBlank x)))

end Sys2Proof.Asm
end

