-- ==== Sys2Proof/Machine/Reference.lean ====
section
/-! DEFINITION. The reference functions of the source, over whole bit sequences. They are normative (00_scope.md R14):
the commands realise them bit by bit, and that they do is a claim about the model. -/

namespace Sys2Proof.Reference

open Sys2Proof.Machine

/-- `crc16(s)`: the LFSR from register 0 over the whole sequence; no padding, no reflection, no final XOR
(40_crc16.md R64). -/
def crc16 (s : BitSeq) : Half := crcRun 0x0000#16 s

/-- The pair of a bit: 0 is (1,0), 1 is (0,1) (41_manchester.md R73). -/
def pairOf (b : Bool) : BitSeq := if b = false then [true, false] else [false, true]

/-- `encode(s)`: Manchester encoding (41_manchester.md R73). -/
def encodeBits : BitSeq → BitSeq
  | [] => []
  | b :: s => pairOf b ++ encodeBits s

/-- DecodeError (41_manchester.md R75); `position` is the 0-based index of the pair, `observed` the pair itself. -/
inductive DecodeError where
  | oddLength
  | invalidPair (position : Nat) (observed : Bool × Bool)
deriving DecidableEq, Repr

/-- The pair loop of `decode`, from pair index `k` with the bits `out` decoded so far (41_manchester.md R75). -/
def decodePairs (k : Nat) (out : BitSeq) : BitSeq → Except DecodeError BitSeq
  | a :: b :: e =>
    if (a, b) = (true, false) then decodePairs (k + 1) (out ++ [false]) e
    else if (a, b) = (false, true) then decodePairs (k + 1) (out ++ [true]) e
    else .error (.invalidPair k (a, b))
  | [_] => .ok out
  | [] => .ok out

/-- `decode(e)`: odd length is tested before any pair (41_manchester.md R75). -/
def decodeBits (e : BitSeq) : Except DecodeError BitSeq :=
  if e.length % 2 = 1 then .error .oddLength else decodePairs 0 [] e

/-- `build_frame(d) = d ++ bits16(crc16(d))`; its precondition is `len(d) ≥ 1` (42_frame.md R87, R89). -/
def buildFrame (d : BitSeq) : BitSeq := d ++ bits16 (crc16 d)

/-- VerifyResult; Match and Mismatch carry both CRC values (42_frame.md R92, R93). -/
inductive VerifyResult where
  | tooShort
  | matched (received calculated : Half)
  | mismatch (received calculated : Half)
deriving DecidableEq, Repr

/-- `verify_frame(f)`: split at `len(f) - 16` and compare (42_frame.md R92). -/
def verifyFrame (f : BitSeq) : VerifyResult :=
  if f.length < Config.minFrame then .tooShort
  else
    let rc := val16 (f.drop (f.length - 16))
    let cc := crc16 (f.take (f.length - 16))
    if rc = cc then .matched rc cc else .mismatch rc cc

/-- `encode_for_transmission(d, inject)` (42_frame.md R101). -/
def encodeForTransmission (d : BitSeq) (inject : BitSeq → BitSeq) : BitSeq :=
  encodeBits (inject (buildFrame d))

/-- The result of `decode_and_verify` (42_frame.md R101). -/
inductive Verification where
  | oddLength
  | invalidPair (position : Nat) (observed : Bool × Bool)
  | tooShort
  | matched (received calculated : Half)
  | mismatch (received calculated : Half)
deriving DecidableEq, Repr

/-- `decode_and_verify(e)` (42_frame.md R101). -/
def decodeAndVerify (e : BitSeq) : Verification :=
  match decodeBits e with
  | .error .oddLength => .oddLength
  | .error (.invalidPair k p) => .invalidPair k p
  | .ok f =>
    match verifyFrame f with
    | .tooShort => .tooShort
    | .matched rc cc => .matched rc cc
    | .mismatch rc cc => .mismatch rc cc

/-- The verdict code of a result (60_exceptions.md R131). -/
def Verification.verdict : Verification → Verdict
  | .oddLength => .oddLength
  | .invalidPair _ _ => .invalidPair
  | .tooShort => .tooShort
  | .matched _ _ => .matched
  | .mismatch _ _ => .mismatch

/-- Bitwise XOR of two sequences of equal length (40_crc16.md R71). -/
def xorSeq (s t : BitSeq) : BitSeq := List.zipWith xor s t

end Sys2Proof.Reference
end

