-- ==== Sys2Proof/Machine/Harness.lean ====
section
/-! DEFINITION. The host around the core (49_host.md): fault injector, wire payload, sender and receiver flows, reports.
None of it is state or a command of the core (00_scope.md R3); it is here so that claims about a whole transmission can
be stated. What the spec leaves open is an argument (log entry 12). -/

namespace Sys2Proof.Harness

open Sys2Proof.Machine

/-! ## The fault injector (49_host.md R120 to R124) -/

/-- `flip_bit(f, pos)`: one bit toggled, no-op out of bounds (49_host.md R120). -/
def flipBit (f : BitSeq) (pos : Nat) : BitSeq :=
  if pos < f.length then f.mapIdx (fun i b => if i = pos then !b else b) else f

/-- `flip_burst(f, pos, n)`: a run toggled, clipped to the frame's end, no-op if it starts out of bounds
(49_host.md R121). -/
def flipBurst (f : BitSeq) (pos n : Nat) : BitSeq :=
  if pos < f.length then
    f.mapIdx (fun i b => if pos ≤ i ∧ i < min (pos + n) f.length then !b else b)
  else f

/-- Why the sender stops before the payload is sent (49_host.md R117, R119, R122). -/
inductive SenderError where
  /-- A character of the data string is neither '0' nor '1'. -/
  | nonBinary
  /-- The data string is empty. -/
  | emptyData
  /-- InvalidCount, or an even count where the CLI rejects one. -/
  | invalidCount
  /-- The core did not answer FA.TAIL with OK (49_host.md R112 step 2). -/
  | coreRefused
  /-- The transport met an unrecoverable write error (49_host.md R117). -/
  | writeError
deriving DecidableEq, Repr

/-- A draw of `k` distinct positions of a frame of `len` bits: what the random source may choose, with no law about
which (49_host.md R122, R125). -/
abbrev ValidDraw (len k : Nat) (draw : List Nat) : Prop :=
  draw.length = k ∧ draw.Nodup ∧ ∀ p ∈ draw, p < len

/-- `flip_k_distinct_bits(f, k)`: InvalidCount when `k < 1` or `k > len(f)`, oddness not enforced; `draw` is the
positions the random source chose (49_host.md R122, 90_conflicts.md C3). -/
def flipK (f : BitSeq) (k : Nat) (draw : List Nat) : Except SenderError BitSeq :=
  if k < 1 ∨ f.length < k then .error .invalidCount else .ok (draw.foldl flipBit f)

/-- The fault-injection choices 0 to 6 (49_host.md R123). Choice 3 takes the operator's count and the draw. -/
inductive FaultChoice where
  | noError
  | single
  | double
  | oddCount (k : Nat) (draw : List Nat)
  | burst8
  | burst17
  | burst22
deriving DecidableEq, Repr

/-- The choice of a code; a code above 6 is no choice (49_host.md R123). -/
def FaultChoice.ofCode (code k : Nat) (draw : List Nat) : Option FaultChoice :=
  match code with
  | 0 => some .noError
  | 1 => some .single
  | 2 => some .double
  | 3 => some (.oddCount k draw)
  | 4 => some .burst8
  | 5 => some .burst17
  | 6 => some .burst22
  | _ => none

/-- The operation of a choice on the frame, before Manchester encoding (49_host.md R123, R124; 90_conflicts.md C6).
DESIGN CHOICE: an even count that the command line rejects is rejected here, after the commands of the frame's assembly;
the spec does not say when (log entry 18). -/
def inject (p : Config.HostParams) (c : FaultChoice) (f : BitSeq) : Except SenderError BitSeq :=
  match c with
  | .noError => .ok f
  | .single => .ok (flipBit f p.posSingle)
  | .double => .ok (flipBit (flipBit f p.posDoubleA) p.posDoubleB)
  | .oddCount k draw =>
    if p.cliRejectsEvenK = true ∧ k % 2 = 0 then .error .invalidCount else flipK f k draw
  | .burst8 => .ok (flipBurst f p.posBurst8 8)
  | .burst17 => .ok (flipBurst f p.posBurst17 17)
  | .burst22 => .ok (flipBurst f p.posBurst22 22)

/-! ## The wire payload (49_host.md R114, R115) -/

/-- A byte of the payload. -/
abbrev Byte := BitVec 8

/-- Encoded bit 0 is the character '0', byte 0x30, and 1 is '1', byte 0x31 (49_host.md R114). -/
def byteOf (b : Bool) : Byte := if b = false then 0x30#8 else 0x31#8

/-- Serialization: one character a bit, in order, nothing else (49_host.md R114). -/
def serialize (s : BitSeq) : List Byte := s.map byteOf

/-- Why the receiver's parser stops (49_host.md R115). -/
inductive ParseStop where
  | structural
  | detected
deriving DecidableEq, Repr

/-- Parsing the payload under RX_BAD_CHAR_POLICY (49_host.md R115). -/
def parse (policy : Config.BadCharPolicy) : List Byte → Except ParseStop BitSeq
  | [] => .ok []
  | c :: cs =>
    if c = 0x30#8 then (parse policy cs).map (fun s => false :: s)
    else if c = 0x31#8 then (parse policy cs).map (fun s => true :: s)
    else
      match policy with
      | .structural => .error .structural
      | .detected => .error .detected
      | .skip => parse policy cs

/-! ## The transport's contract (49_host.md R117) -/

/-- What the connection answers to one attempt to write: it takes at most `n` bytes, or fails for good. -/
inductive WriteAttempt where
  | takes (n : Nat)
  | fails
deriving DecidableEq, Repr

/-- How a `send` stands: every byte is written, it met an unrecoverable write error, or it is still retrying. -/
inductive SendStatus where
  | complete
  | writeError
  | retrying
deriving DecidableEq, Repr

/-- A `send`: the bytes the connection has taken, in order, and how it stands. -/
structure Sending where
  stream : List Byte
  status : SendStatus
deriving DecidableEq, Repr

/-- `send(bytes)`: what a partial write leaves is written again, until all is written or a write fails for good
(49_host.md R117). The first argument is what the connection answers, attempt by attempt (log entry 15). -/
def sendBytes : List WriteAttempt → List Byte → Sending
  | _, [] => ⟨[], .complete⟩
  | [], _ :: _ => ⟨[], .retrying⟩
  | .fails :: _, _ :: _ => ⟨[], .writeError⟩
  | .takes n :: ws, b :: bs =>
    let r := sendBytes ws ((b :: bs).drop n)
    ⟨(b :: bs).take n ++ r.stream, r.status⟩

/-- What the connection answers to one attempt to read, before the stream's end. -/
inductive ReadAttempt where
  | gives (bytes : List Byte)
  | fails
deriving DecidableEq, Repr

/-- `receive_until_close()`: all bytes until the stream's end, or none at any read error (49_host.md R117). The argument is
what the connection answers until it is closed (log entry 15). -/
def receiveUntilClose : List ReadAttempt → Option (List Byte)
  | [] => some []
  | .fails :: _ => none
  | .gives bytes :: rs => (receiveUntilClose rs).map (fun rest => bytes ++ rest)

/-- The bytes a read attempt gives. -/
def ReadAttempt.given : ReadAttempt → List Byte
  | .gives bytes => bytes
  | .fails => []

/-- The most bytes a write attempt takes. -/
def WriteAttempt.room : WriteAttempt → Nat
  | .takes n => n
  | .fails => 0

/-- The reads of a reliable, order-preserving stream: none fails, and their bytes are those written, in order
(49_host.md R117). -/
abbrev Arrives (reads : List ReadAttempt) (stream : List Byte) : Prop :=
  .fails ∉ reads ∧ (reads.map ReadAttempt.given).flatten = stream

/-! ## The sender's flow (49_host.md R112, R119) -/

/-- The data string as bits, or why it is refused (49_host.md R119). -/
def dataBits (text : List Char) : Except SenderError BitSeq :=
  if text = [] then .error .emptyData
  else
    match Asm.bitChars text with
    | some s => .ok s
    | none => .error .nonBinary

/-- The words that put the CRC of `d` together: CRC.CLR, CRC.FEED over the chunks, FA.TAIL (42_frame.md R91). DESIGN CHOICE:
the host cuts at every 16 bits, where the spec lets it cut in any way (20_memory.md R41; log entry 21). -/
def assembleWords (d : BitSeq) : List Word :=
  ((Instr.crcClr :: Asm.feedAll .crcFeed d) ++ [Instr.faTail]).map encode

/-- The words that encode a sequence (41_manchester.md R78). DESIGN CHOICE: the host cuts at every 16 bits (log entry 21). -/
def mencWords (s : BitSeq) : List Word := (Asm.feedAll .menc s).map encode

/-- The host takes 2 × (chunk length) bits out of each MENC response, in order (41_manchester.md R78). -/
def mencBits (cs : List BitSeq) (rs : List Response) : BitSeq :=
  (List.zipWith (fun c r => lowBits (2 * c.length) r.data) cs rs).flatten

/-- The last response of a list (the response of FA.TAIL in the sender's flow). -/
def lastResponse (rs : List Response) : Response := rs.getLastD ⟨.ok, 0#32⟩

/-- The sender's flow on a core in state `s` up to the payload: the core's state after it and the payload to send, or why
nothing is transmitted (49_host.md R112 steps 1 to 6, before the transport). -/
def send (p : Config.HostParams) (c : FaultChoice) (text : List Char) (s : State) :
    State × Except SenderError (List Byte) :=
  match dataBits text with
  | .error e => (s, .error e)
  | .ok d =>
    let t := transcript (assembleWords d) s
    let tail := lastResponse t.2
    if tail.code = .ok then
      match inject p c (d ++ bits16 (tail.data.setWidth 16)) with
      | .error e => (t.1, .error e)
      | .ok f =>
        let m := transcript (mencWords f) t.1
        (m.1, .ok (serialize (mencBits (chunks f) m.2)))
    else (t.1, .error .coreRefused)

/-- What a sender's run comes to: the bytes the connection has taken, and its result: the number of bytes sent, why it
stopped, or nothing yet while the transport still retries. -/
structure Transmission where
  stream : List Byte
  result : Option (Except SenderError Nat)
deriving DecidableEq, Repr

/-- The result of a `send`: the number of bytes sent, or the write error (49_host.md R117). -/
def Sending.result (r : Sending) : Option (Except SenderError Nat) :=
  match r.status with
  | .complete => some (.ok r.stream.length)
  | .writeError => some (.error .writeError)
  | .retrying => none

/-- The sender's whole flow: `send` of the payload over a connection that answers `writes` (49_host.md R112, R117). One
frame and one `send` a run; a run that stops before the payload writes nothing (R119). -/
def transmit (p : Config.HostParams) (c : FaultChoice) (text : List Char) (writes : List WriteAttempt) (s : State) :
    State × Transmission :=
  match send p c text s with
  | (t, .error e) => (t, ⟨[], some (.error e)⟩)
  | (t, .ok payload) => (t, ⟨(sendBytes writes payload).stream, (sendBytes writes payload).result⟩)

/-- The exit status of a sender that stops: never 0, its value a parameter (49_host.md R119; log entry 17). -/
def SenderError.exitCode (p : Config.HostParams) : SenderError → Nat
  | .nonBinary => p.senderExits.nonBinary + 1
  | .emptyData => p.senderExits.emptyData + 1
  | .invalidCount => p.senderExits.invalidCount + 1
  | .coreRefused => p.senderExits.coreRefused + 1
  | .writeError => p.senderExits.writeError + 1

/-- The exit status of a sender's run, from what its flow answers; the spec gives none for a sender that transmits
(49_host.md R119; log entry 17). -/
def senderExit {α : Type} (p : Config.HostParams) : Except SenderError α → Option Nat
  | .error e => some (e.exitCode p)
  | .ok _ => none

/-! ## The receiver's flow (49_host.md R113, R116, R118) -/

/-- What the receiver reports (49_host.md R118). -/
inductive Report where
  | noErrorDetected
  | errorDetected
  | structuralFailure
deriving DecidableEq, Repr

/-- The message of a report; a structural failure's wording is not the spec's (49_host.md R118,
93_implementation_defined.md U15). -/
def Report.message : Report → Option String
  | .noErrorDetected => some "NO ERROR DETECTED"
  | .errorDetected => some "ERROR DETECTED"
  | .structuralFailure => none

/-- The receiver's exit code (49_host.md R118). -/
def Report.exitCode : Report → Nat
  | .noErrorDetected => 0
  | .errorDetected => 0
  | .structuralFailure => 1

/-- The report of a verdict word, from VW.DET and VERD (49_host.md R113 step 5, R118). A word with VERD = NONE says that
the sequence has not been ended and is not to be read as no error (60_exceptions.md R134): it has no report (log entry
19). -/
def reportOf (vw : Word) : Option Report :=
  if vw.getLsbD 4 = true then some .errorDetected
  else if vw.extractLsb' 0 4 = Verdict.none.code then none
  else some .noErrorDetected

/-- The words of a receive sequence: RX.CLR, MD.FEED over the chunks, RX.END (49_host.md R113 step 4). DESIGN CHOICE:
the host cuts at every 16 bits (log entry 21). -/
def receiveWords (e : BitSeq) : List Word :=
  ((Instr.rxClr :: Asm.feedAll .mdFeed e) ++ [Instr.rxEnd]).map encode

/-- The bits one MD.FEED response delivers: its `out` field taken as `k` bits (41_manchester.md R80). -/
def deliveredBits (r : Response) : BitSeq :=
  lowBits (r.data.extractLsb' 24 4).toNat r.data

/-- The bits the host keeps: all the delivered ones, or none if the verdict is ODD_LENGTH or INVALID_PAIR
(41_manchester.md R83). -/
def keptBits (vw : Word) (rs : List Response) : Option BitSeq :=
  if vw.extractLsb' 0 4 = Verdict.oddLength.code ∨ vw.extractLsb' 0 4 = Verdict.invalidPair.code then none
  else some (rs.map deliveredBits).flatten

/-- What the receiver's run answers: its report, if there is one, and the bits it keeps where a frame was decoded. That
every run has a report is a claim about the model. -/
structure Reception where
  report : Option Report
  bits : Option BitSeq
deriving DecidableEq, Repr

/-- The receiver's flow on a core in state `s`, from the result of `receiveUntilClose`: `none` is a transport error
(49_host.md R113, R116 to R118; log entries 13, 15 and 20). -/
def receive (policy : Config.BadCharPolicy) (payload : Option (List Byte)) (s : State) : State × Reception :=
  match payload with
  | none => (s, ⟨some .structuralFailure, none⟩)
  | some [] => (s, ⟨some .structuralFailure, none⟩)
  | some (c :: cs) =>
    match parse policy (c :: cs) with
    | .error .structural => (s, ⟨some .structuralFailure, none⟩)
    | .error .detected => (s, ⟨some .errorDetected, none⟩)
    | .ok e =>
      let t := transcript (receiveWords e) s
      let vw := (lastResponse t.2).data
      (t.1, ⟨reportOf vw, keptBits vw (t.2.drop 1).dropLast⟩)

/-- The start-up check: after SRST, RD 0 answers the CFG both ends must share (70_reset_and_hazards.md R148, R156).
DESIGN CHOICE: of the two ways to begin that the spec leaves to the host, the reset input and SRST, this check takes SRST
(log entry 22). -/
def startUpWords : List Word := [Instr.srst, Instr.rd .cfg].map encode

/-- The host accepts the core when RD 0 answered POLY 0x1021 and width 16 (70_reset_and_hazards.md R148). -/
def startUpOk (s : State) : Bool :=
  (lastResponse (transcript startUpWords s).2).data == 0x00101021#32

end Sys2Proof.Harness
end

