-- ==== Sys2Proof/Safety.lean ====
section
/-! DEFINITION. The terms claims are stated in: the invariant of reachable states, which command may write which
element, and the runs of a transmission. -/

namespace Sys2Proof

/-- The commands that clear the receive channel. -/
def Instr.clearsRx : Instr → Bool
  | .rxClr => true
  | .srst => true
  | .nop => false
  | .crcClr => false
  | .crcFeed _ _ => false
  | .faTail => false
  | .menc _ _ => false
  | .mdFeed _ _ => false
  | .fdFeed _ _ => false
  | .rxEnd => false
  | .rd _ => false

/-- A command's mnemonic (30_encoding.md R53). -/
def Instr.mnemonic : Instr → String
  | .nop => "NOP"
  | .crcClr => "CRC.CLR"
  | .crcFeed _ _ => "CRC.FEED"
  | .faTail => "FA.TAIL"
  | .menc _ _ => "MENC"
  | .rxClr => "RX.CLR"
  | .mdFeed _ _ => "MD.FEED"
  | .fdFeed _ _ => "FD.FEED"
  | .rxEnd => "RX.END"
  | .rd _ => "RD"
  | .srst => "SRST"

/-- The response codes a command can return (60_exceptions.md R129). -/
def Instr.codes : Instr → List Machine.RCode
  | .faTail => [.ok, .empty]
  | .mdFeed _ _ => [.ok, .closed]
  | .fdFeed _ _ => [.ok, .closed]
  | .nop => [.ok]
  | .crcClr => [.ok]
  | .crcFeed _ _ => [.ok]
  | .menc _ _ => [.ok]
  | .rxClr => [.ok]
  | .rxEnd => [.ok]
  | .rd _ => [.ok]
  | .srst => [.ok]

/-- The operand formats (30_encoding.md R50 to R52). -/
inductive Format where
  | z | f | r
deriving DecidableEq, Repr

/-- A command's format (30_encoding.md R53). -/
def Instr.format : Instr → Format
  | .nop => .z
  | .crcClr => .z
  | .crcFeed _ _ => .f
  | .faTail => .z
  | .menc _ _ => .f
  | .rxClr => .z
  | .mdFeed _ _ => .f
  | .fdFeed _ _ => .f
  | .rxEnd => .z
  | .rd _ => .r
  | .srst => .z

end Sys2Proof

namespace Sys2Proof.Machine

/-- The invariant of 10_state.md R37. -/
structure State.Inv (s : State) : Prop where
  /-- `HV = 0 ⇒ H = 0`. -/
  halfClear : s.hv = false → s.h = false
  /-- `EV = 0 ⇒ EPOS = 0 ∧ EOBS = 0b00`. -/
  recordClear : s.ev = false → s.epos = 0#32 ∧ s.eobs = 0b00#2
  /-- `EV = 1 ⇒ EOBS ∈ {0b00, 0b11}`. -/
  recordPair : s.ev = true → s.eobs = 0b00#2 ∨ s.eobs = 0b11#2
  /-- `EV = 1 ⇒ EPOS < PIDX`, or both saturated. -/
  recordBelow : s.ev = true → s.epos.toNat < s.pidx.toNat ∨
    (s.epos = Config.counterMax ∧ s.pidx = Config.counterMax)
  /-- `DONE = 0 ⇔ VERD = 0`. -/
  doneVerdict : s.done = false ↔ s.verd = .none
  /-- `FCNT < 16 ⇒ TAIL < 2^FCNT`. -/
  tailFits : s.fcnt.toNat < 16 → s.tail.toNat < 2 ^ s.fcnt.toNat
  /-- `FCNT ≤ 16 ⇒ RXCRC = 0`. -/
  rxcrcClear : s.fcnt.toNat ≤ 16 → s.rxcrc = 0x0000#16

/-- The stored verdict is the verdict of the receive channel as it stands (42_frame.md R97, 10_state.md R27). -/
abbrev State.VerdictStands (s : State) : Prop := s.done = true → s.verd = s.verdict

/-- The elements of the state (10_state.md R18). -/
inductive Element where
  | crc | cne | hv | h | pidx | ev | epos | eobs | tail | rxcrc | fcnt | done | verd | rdata | rcode
deriving DecidableEq, Repr

/-- An element's value, zero-extended to 32 bits. -/
def State.element (s : State) : Element → Word
  | .crc => s.crc.setWidth 32
  | .cne => (BitVec.ofBool s.cne).setWidth 32
  | .hv => (BitVec.ofBool s.hv).setWidth 32
  | .h => (BitVec.ofBool s.h).setWidth 32
  | .pidx => s.pidx
  | .ev => (BitVec.ofBool s.ev).setWidth 32
  | .epos => s.epos
  | .eobs => s.eobs.setWidth 32
  | .tail => s.tail.setWidth 32
  | .rxcrc => s.rxcrc.setWidth 32
  | .fcnt => s.fcnt
  | .done => (BitVec.ofBool s.done).setWidth 32
  | .verd => s.verd.code.setWidth 32
  | .rdata => s.rdata
  | .rcode => s.rcode.code.setWidth 32

/-- The "written by" column of 10_state.md R18: the mnemonics of an element's writers. -/
def Element.writers : Element → List String
  | .crc => ["CRC.CLR", "CRC.FEED", "SRST"]
  | .cne => ["CRC.CLR", "CRC.FEED", "SRST"]
  | .hv => ["RX.CLR", "MD.FEED", "SRST"]
  | .h => ["RX.CLR", "MD.FEED", "SRST"]
  | .pidx => ["RX.CLR", "MD.FEED", "SRST"]
  | .ev => ["RX.CLR", "MD.FEED", "SRST"]
  | .epos => ["RX.CLR", "MD.FEED", "SRST"]
  | .eobs => ["RX.CLR", "MD.FEED", "SRST"]
  | .tail => ["RX.CLR", "MD.FEED", "FD.FEED", "SRST"]
  | .rxcrc => ["RX.CLR", "MD.FEED", "FD.FEED", "SRST"]
  | .fcnt => ["RX.CLR", "MD.FEED", "FD.FEED", "SRST"]
  | .done => ["RX.CLR", "RX.END", "SRST"]
  | .verd => ["RX.CLR", "RX.END", "SRST"]
  | .rdata => ["NOP", "CRC.CLR", "CRC.FEED", "FA.TAIL", "MENC", "RX.CLR", "MD.FEED", "FD.FEED", "RX.END", "RD", "SRST"]
  | .rcode => ["NOP", "CRC.CLR", "CRC.FEED", "FA.TAIL", "MENC", "RX.CLR", "MD.FEED", "FD.FEED", "RX.END", "RD", "SRST"]

/-- The format of the command a word decodes to, if any. -/
def formatOf (w : Word) : Option Format :=
  match decode w with
  | .ok i => some i.format
  | .error _ => none

/-- A state that differs from `s` in the response registers only: the state after a command that is not carried out
(60_exceptions.md R136). -/
abbrev State.answered (s : State) (code : RCode) (data : Word) : State := { s with rcode := code, rdata := data }

/-- The chunks of a cut: each of 1 to 16 bits (30_encoding.md R51). -/
abbrev IsCut (cs : List BitSeq) : Prop := ∀ c ∈ cs, 1 ≤ c.length ∧ c.length ≤ 16

/-- The words of a cut sequence fed by one command. -/
def feedWords (mk : Nat → Half → Instr) (cs : List BitSeq) : List Word := cs.map (fun c => encode (Asm.feedSeq mk c))

/-- RX.CLR, the cut fed by `mk`, RX.END (41_manchester.md R84, 42_frame.md R100, R102). -/
def receiveRun (mk : Nat → Half → Instr) (cs : List BitSeq) : List Word :=
  encode .rxClr :: (feedWords mk cs ++ [encode .rxEnd])

end Sys2Proof.Machine
end

