-- ==== Sys2Proof/Certificates/Slice0/Obligations.lean ====
section
/-! DEFINITION. The statements for the provers, and the few terms they are written in. -/

open Sys2Proof Sys2Proof.Machine Sys2Proof.Reference Sys2Proof.Harness

namespace Sys2Proof.Claims

/-- The word of a format Z command is the only legal word with its opcode (30_encoding.md R50): any other answers
(ILLEGAL, 0) and changes nothing else (43_control.md R108). -/
def OnlyWord (i : Instr) (w0 : Word) : Prop :=
  encode i = w0 ∧ decode w0 = .ok i ∧
    ∀ (w : Word) (s : State), opField w = opField w0 → w ≠ w0 → acceptWord w s = .next (s.answered .illegal 0#32)

/-- The word of a format F command (30_encoding.md R51), and what its opcode answers with operands out of range. -/
def FeedWord (mk : Nat → Half → Instr) (base : Word) : Prop :=
  (∀ (n : Nat) (d : Half), FeedOperands n d →
    encode (mk n d) = base ||| (BitVec.ofNat 32 n <<< 16) ||| d.setWidth 32 ∧
      decode (encode (mk n d)) = .ok (mk n d)) ∧
  ∀ (w : Word) (s : State), opField w = opField base →
    (rsvField w ≠ 0#3 ∨ nField w = 0#5 ∨ 16 < (nField w).toNat ∨ dField w >>> (nField w).toNat ≠ 0#16) →
    acceptWord w s = .next (s.answered .illegal 0#32)

/-- The reserved spaces as 30_encoding.md R56 lists them, read off the fields of a word. -/
def Reserved (w : Word) : Prop :=
  let op := (opField w).toNat
  let z := op ∈ [0x00, 0x01, 0x03, 0x08, 0x0B, 0x1F]
  let f := op ∈ [0x02, 0x04, 0x09, 0x0A]
  let n := (nField w).toNat
  (5 ≤ op ∧ op ≤ 7) ∨ (0x0C ≤ op ∧ op ≤ 0x0F) ∨ (0x11 ≤ op ∧ op ≤ 0x1E) ∨ 0x20 ≤ op ∨
    rsvField w ≠ 0#3 ∨
    ((z ∨ op = 0x10) ∧ n ≠ 0) ∨ (f ∧ (n = 0 ∨ 17 ≤ n)) ∨
    (z ∧ dField w ≠ 0#16) ∨
    (f ∧ ∃ j, n ≤ j ∧ (dField w).getLsbD j = true) ∨
    (op = 0x10 ∧ ∃ j, 5 ≤ j ∧ (dField w).getLsbD j = true) ∨
    (op = 0x10 ∧ 9 ≤ (dField w).toNat % 32)

/-- The loop `for i = N-1 downto 0: r = crc_step(r, D[i])` (40_crc16.md R67). -/
def lfsrLoop : Nat → Half → Half → Half
  | 0, r, _ => r
  | i + 1, r, d => lfsrLoop i (crcStep r (d.getLsbD i)) d

/-- The complete pairs of an encoded sequence, in order (41_manchester.md R75). -/
def pairsOf : BitSeq → List (Bool × Bool)
  | a :: b :: e => (a, b) :: pairsOf e
  | [_] => []
  | [] => []

/-- The bit left over when the length is odd. -/
def halfOf : BitSeq → Option Bool
  | _ :: _ :: e => halfOf e
  | [a] => some a
  | [] => none

/-- The pairs before the first invalid one: (1,0) and (0,1) are valid (41_manchester.md R75). -/
def goodPairs (ps : List (Bool × Bool)) : List (Bool × Bool) := ps.takeWhile (fun p => p.1 != p.2)

/-- A count held at 0xFFFFFFFF (00_scope.md R6). -/
def saturated (n : Nat) : Word := BitVec.ofNat 32 (min n 4294967295)

/-- TAIL after pushing `bits`: the last 16 of the held bits and the new ones (10_state.md R24). -/
def pushTail (s : State) (bits : BitSeq) : Half := val16 ((bits16 s.tail ++ bits).drop bits.length)

/-- RXCRC after pushing `bits`: the bits that left the delay line once it held 16 (42_frame.md R94). -/
def pushCrc (s : State) (bits : BitSeq) : Half :=
  crcRun s.rxcrc (((bits16 s.tail ++ bits).take bits.length).drop (16 - s.fcnt.toNat))

/-- FCNT after pushing `bits` (10_state.md R26). -/
def pushCount (s : State) (bits : BitSeq) : Word := saturated (s.fcnt.toNat + bits.length)

/-- The verdict word of a verdict as a number (10_state.md R32, 60_exceptions.md R131). -/
def vwNumber (v : Verdict) (eobs : BitVec 2) : Nat :=
  match v with
  | .none => 0x00
  | .matched => 0x01
  | .mismatch => 0x12
  | .tooShort => 0x13
  | .oddLength => 0x14
  | .invalidPair => 0x15 + 32 * eobs.toNat

/-- The number of a verdict (60_exceptions.md R131). -/
def verdictNumber (v : Verdict) : Nat :=
  match v with
  | .none => 0
  | .matched => 1
  | .mismatch => 2
  | .tooShort => 3
  | .oddLength => 4
  | .invalidPair => 5

/-- The register map, each value as a number (10_state.md R30 to R32). -/
def regNumber (s : State) (r : Reg) : Nat :=
  match r with
  | .cfg => 0x00101021
  | .crcstat => s.crc.toNat + 2 ^ 16 * s.cne.toNat
  | .rxstat => s.hv.toNat + 2 * s.h.toNat + 4 * s.ev.toNat + 8 * s.eobs.toNat + 32 * s.done.toNat +
      64 * verdictNumber s.verd
  | .rxpidx => s.pidx.toNat
  | .rxepos => s.epos.toNat
  | .rxfcnt => s.fcnt.toNat
  | .rxtail => s.tail.toNat
  | .rxcrc => s.rxcrc.toNat
  | .rxvw => vwNumber s.verd s.eobs

/-- The index of a register as the map numbers it (10_state.md R30). -/
def regNumberOf (r : Reg) : Nat :=
  match r with
  | .cfg => 0
  | .crcstat => 1
  | .rxstat => 2
  | .rxpidx => 3
  | .rxepos => 4
  | .rxfcnt => 5
  | .rxtail => 6
  | .rxcrc => 7
  | .rxvw => 8

/-- The sequence a command carries (30_encoding.md R51). -/
def carried (i : Instr) : BitSeq :=
  match i with
  | .crcFeed n d => seqF n d
  | .menc n d => seqF n d
  | .mdFeed n d => seqF n d
  | .fdFeed n d => seqF n d
  | .nop => []
  | .crcClr => []
  | .faTail => []
  | .rxClr => []
  | .rxEnd => []
  | .rd _ => []
  | .srst => []

/-- The bits a command feeds to the CRC engine (40_crc16.md R67). -/
def crcBits (i : Instr) : BitSeq :=
  match i with
  | .crcFeed n d => seqF n d
  | _ => []

/-- The bits a feed pushes into the disassembler: those of FD.FEED, or those MD.FEED delivers (42_frame.md R104). -/
def pushedBits (i : Instr) (r : Response) : BitSeq :=
  match i with
  | .fdFeed n d => seqF n d
  | .mdFeed _ _ => deliveredBits r
  | _ => []

/-- A command is MD.FEED or FD.FEED with operands in range. -/
def isFeed (i : Instr) : Prop :=
  match i with
  | .mdFeed n d => FeedOperands n d
  | .fdFeed n d => FeedOperands n d
  | _ => False

/-- A command is MD.FEED. -/
def isMdFeed (i : Instr) : Bool :=
  match i with
  | .mdFeed _ _ => true
  | _ => false

/-- A command of the receive channel (42_frame.md R96, R97; 41_manchester.md R80). -/
def isReceive (i : Instr) : Bool :=
  match i with
  | .rxClr => true
  | .mdFeed _ _ => true
  | .fdFeed _ _ => true
  | .rxEnd => true
  | _ => false

/-- A command of the transmit path (40_crc16.md R66, R67; 42_frame.md R90; 41_manchester.md R77). -/
def isTransmit (i : Instr) : Bool :=
  match i with
  | .crcClr => true
  | .crcFeed _ _ => true
  | .faTail => true
  | .menc _ _ => true
  | _ => false

/-- A command that is idempotent by 20_memory.md R43. -/
def isIdempotent (i : Instr) : Bool :=
  match i with
  | .crcFeed _ _ => false
  | .mdFeed _ _ => false
  | .fdFeed _ _ => false
  | _ => true

/-- The elements of the receive channel agree (10_state.md R18). -/
abbrev SameRx (s t : State) : Prop :=
  s.hv = t.hv ∧ s.h = t.h ∧ s.pidx = t.pidx ∧ s.ev = t.ev ∧ s.epos = t.epos ∧ s.eobs = t.eobs ∧ s.tail = t.tail ∧
    s.rxcrc = t.rxcrc ∧ s.fcnt = t.fcnt ∧ s.done = t.done ∧ s.verd = t.verd

/-- The decoder's elements agree (10_state.md R18). -/
abbrev SameDecoder (s t : State) : Prop :=
  s.hv = t.hv ∧ s.h = t.h ∧ s.pidx = t.pidx ∧ s.ev = t.ev ∧ s.epos = t.epos ∧ s.eobs = t.eobs

/-- A pair as EOBS holds it, first half in bit 1 (10_state.md R23). -/
def pairBits (p : Bool × Bool) : BitVec 2 := BitVec.ofNat 2 (2 * p.1.toNat + p.2.toNat)

end Sys2Proof.Claims

open Sys2Proof.Claims

/-! ## Encoding -/

/-- 30_encoding.md R49 to R53: every well-formed command decodes from its own word. -/
def Obligations.DecodeEncodeRoundTrip : Prop :=
  ∀ i : Instr, i.WellFormed → decode (encode i) = .ok i

/-- 30_encoding.md R54: a legal word decodes to a command that has exactly this word, and an illegal word is handled as
R108 says. -/
def Obligations.LegalWordsDecode : Prop :=
  ∀ w : Word,
    (legal w = true → ∃ i : Instr, decode w = .ok i ∧ i.WellFormed ∧ opcode i = opField w ∧ encode i = w) ∧
    (legal w = false → (∃ e, decode w = .error e) ∧
      ∀ s : State, acceptWord w s = .next (s.answered .illegal 0#32))

/-- 30_encoding.md R58: a word has at most one meaning, no two words share one, and 524 295 words are legal. -/
def Obligations.LegalWordCounts : Prop :=
  (∀ (w v : Word) (i : Instr), decode w = .ok i → decode v = .ok i → w = v) ∧
  (Finset.univ.filter (fun w : Word => formatOf w = some .z)).card = 6 ∧
  (Finset.univ.filter (fun w : Word => formatOf w = some .f)).card = 524280 ∧
  (Finset.univ.filter (fun w : Word => formatOf w = some .r)).card = 9 ∧
  (Finset.univ.filter (fun w : Word => legal w = true)).card = 524295

/-- Sanity: words of 95_test_vectors.md and the assembler lines of 30_encoding.md R59 stand for the commands the spec
gives them. -/
def Obligations.SpecWordsDecode : Prop :=
  decode 0x00000000#32 = .ok .nop ∧ decode 0x01000000#32 = .ok .crcClr ∧
  decode 0x0210B335#32 = .ok (.crcFeed 16 0xB335#16) ∧ decode 0x03000000#32 = .ok .faTail ∧
  decode 0x0404000B#32 = .ok (.menc 4 0xB#16) ∧ decode 0x08000000#32 = .ok .rxClr ∧
  decode 0x09030003#32 = .ok (.mdFeed 3 0x3#16) ∧ decode 0x0A010001#32 = .ok (.fdFeed 1 0x1#16) ∧
  decode 0x0B000000#32 = .ok .rxEnd ∧ decode 0x10000008#32 = .ok (.rd .rxvw) ∧ decode 0x1F000000#32 = .ok .srst ∧
  decode 0x02110000#32 = .error .countOutOfRange ∧ decode 0x10000009#32 = .error .reservedRegister ∧
  Asm.assembleLine "crc.feed \"1011\" ; four bits".toList = some [.crcFeed 4 0xB#16] ∧
  Asm.assembleLine "CRC.FEED 4, 0xB".toList = some [.crcFeed 4 0xB#16] ∧
  Asm.assembleLine "RD RXVW".toList = some [.rd .rxvw]

/-- 30_encoding.md R56: the illegal words are exactly the reserved spaces. -/
def Obligations.ReservedWordsExactlyIllegal : Prop :=
  ∀ w : Word, (∃ e, decode w = .error e) ↔ Reserved w

/-- 30_encoding.md R60: a sequence's chunks are words' worth of it, in order, 16 bits each except possibly the last;
each is carried by a well-formed command. -/
def Obligations.ChunksCarryTheSequence : Prop :=
  ∀ s : BitSeq,
    (chunks s).flatten = s ∧ IsCut (chunks s) ∧ (chunks s).length = (s.length + 15) / 16 ∧
    (∀ c ∈ (chunks s).dropLast, c.length = 16) ∧
    (∀ c ∈ chunks s, FeedOperands c.length (val16 c) ∧ seqF c.length (val16 c) = c)

/-! ## The port and the step -/

/-- A step runs the command the host's oldest word decodes to; the word is off the port when it runs. -/
def Obligations.StepRunsDecodedCommand : Prop :=
  ∀ (s : State) (w : Word) (rest : List HostMove) (i : Instr),
    s.port = .command w :: rest → decode w = .ok i → step s = exec i { s with port := rest }

/-- The host's view of a list of words is the machine's own run of them. -/
def Obligations.TranscriptIsTheRun : Prop :=
  ∀ (ws : List Word) (s : State) (rest : List HostMove),
    Host.Core.run Sys2Proof.core ws.length { s with port := ws.map HostMove.command ++ rest } =
      .next (transcript ws { s with port := rest }).1

/-- 43_control.md R108, 30_encoding.md R55: an illegal word answers (ILLEGAL, 0), changes nothing else, and changes no
later command's behaviour. -/
def Obligations.IllegalWordOnlyResponds : Prop :=
  ∀ (s : State) (w : Word) (rest : List HostMove), s.port = .command w :: rest → legal w = false →
    step s = .next { s with port := rest, rcode := .illegal, rdata := 0#32 } ∧
    ∀ v : Word, acceptWord v { s with port := rest, rcode := .illegal, rdata := 0#32 } =
      acceptWord v { s with port := rest }

/-- 70_reset_and_hazards.md R144, R145: the reset input puts every element into its reset value, and a command in
flight is discarded. With no move on the port nothing changes (10_state.md R15; log entry 2). -/
def Obligations.ResetInputRestoresResetState : Prop :=
  (∀ (s : State) (inFlight : Option Word) (rest : List HostMove), s.port = .reset inFlight :: rest →
    step s = .next { State.reset with port := rest }) ∧
  (∀ s : State, s.port = [] → step s = .next s)

/-- 10_state.md R35: the reset value of every element, after the reset input and after SRST, and CFG. That both leave the
port, which is no element of the spec, as it is, is the model's choice (log entry 3). -/
def Obligations.ResetValues : Prop :=
  (State.reset.crc = 0x0000#16 ∧ State.reset.cne = false ∧ State.reset.hv = false ∧ State.reset.h = false ∧
    State.reset.pidx = 0#32 ∧ State.reset.ev = false ∧ State.reset.epos = 0#32 ∧ State.reset.eobs = 0b00#2 ∧
    State.reset.tail = 0x0000#16 ∧ State.reset.rxcrc = 0x0000#16 ∧ State.reset.fcnt = 0#32 ∧
    State.reset.done = false ∧ State.reset.verd = .none ∧ State.reset.rdata = 0#32 ∧ State.reset.rcode = .ok) ∧
  (∀ s : State, exec .srst s = .next { State.reset with port := s.port }) ∧
  (∀ (s : State) (inFlight : Option Word),
    takeMove (.reset inFlight) s = .next { State.reset with port := s.port }) ∧
  (∀ s : State, exec (.rd .cfg) s = .next (s.answered .ok 0x00101021#32))

/-- 60_exceptions.md R127: a step is total, with no fault outcome (and the model refuses nothing). -/
def Obligations.StepTotal : Prop :=
  ∀ s : State, ∃ t : State, step s = .next t

/-- 43_control.md R109: every word completes with exactly one response, in at most 16 bit steps of each kind. -/
def Obligations.CommandsCompleteWithOneResponse : Prop :=
  (∀ (w : Word) (s : State), ∃ t : State, acceptWord w s = .next t) ∧
  (∀ (ws : List Word) (s : State), (transcript ws s).2.length = ws.length) ∧
  (∀ (w : Word) (i : Instr), decode w = .ok i → (carried i).length ≤ 16) ∧
  (∀ (n : Nat) (d : Half) (s : State), FeedOperands n d → (mdRun (seqF n d) s).2.length ≤ 8)

/-! ## The commands -/

/-- 43_control.md R105. -/
def Obligations.NopCompletes : Prop :=
  OnlyWord .nop 0x00000000#32 ∧ ∀ s : State, exec .nop s = .next (s.answered .ok 0#32)

/-- 40_crc16.md R66. -/
def Obligations.CrcClrCompletes : Prop :=
  OnlyWord .crcClr 0x01000000#32 ∧
  ∀ s : State, exec .crcClr s = .next { s with crc := 0x0000#16, cne := false, rcode := .ok, rdata := 0#32 }

/-- 40_crc16.md R67. -/
def Obligations.CrcFeedCompletes : Prop :=
  FeedWord .crcFeed 0x02000000#32 ∧
  (∀ (n : Nat) (d : Half) (s : State), FeedOperands n d →
    exec (.crcFeed n d) s =
      .next { s with crc := lfsrLoop n s.crc d, cne := true, rcode := .ok,
                     rdata := (lfsrLoop n s.crc d).setWidth 32 }) ∧
  (∀ n : Nat, lfsrLoop n 0x0000#16 0x0000#16 = 0x0000#16) ∧
  lfsrLoop 16 0x0000#16 0xB335#16 = 0x2DA8#16

/-- 42_frame.md R89, R90. -/
def Obligations.FaTailCompletes : Prop :=
  OnlyWord .faTail 0x03000000#32 ∧
  ∀ s : State,
    (s.cne = true → exec .faTail s = .next (s.answered .ok (s.crc.setWidth 32))) ∧
    (s.cne = false → exec .faTail s = .next (s.answered .empty 0#32))

/-- 41_manchester.md R77: the pair of D[i] is `RDATA[2i+1:2i]`, 0b10 for 0 and 0b01 for 1, the bits above are 0. -/
def Obligations.MencCompletes : Prop :=
  FeedWord .menc 0x04000000#32 ∧
  (∀ (n : Nat) (d : Half), FeedOperands n d → ∃ out : Word,
    (∀ s : State, exec (.menc n d) s = .next (s.answered .ok out)) ∧
    (∀ i, i < n → out.getLsbD (2 * i + 1) = !d.getLsbD i ∧ out.getLsbD (2 * i) = d.getLsbD i) ∧
    (∀ j, 2 * n ≤ j → out.getLsbD j = false))

/-- 42_frame.md R96. -/
def Obligations.RxClrCompletes : Prop :=
  OnlyWord .rxClr 0x08000000#32 ∧
  ∀ s : State, exec .rxClr s =
    .next { s with hv := false, h := false, pidx := 0#32, ev := false, epos := 0#32, eobs := 0b00#2,
                   tail := 0x0000#16, rxcrc := 0x0000#16, fcnt := 0#32, done := false, verd := .none,
                   rcode := .ok, rdata := 0#32 }

/-- 41_manchester.md R79 to R81: the complete pairs of the held half and the fed bits are decoded up to the first
invalid one, which is recorded; every complete pair is counted; each decoded bit is pushed into the disassembler and
delivered in RDATA. After RX.END the command is CLOSED and changes nothing. -/
def Obligations.MdFeedCompletes : Prop :=
  FeedWord .mdFeed 0x09000000#32 ∧
  ∀ (n : Nat) (d : Half) (s : State), FeedOperands n d →
    (s.done = true → exec (.mdFeed n d) s = .next (s.answered .closed 0#32)) ∧
    (s.done = false →
      let e := (if s.hv = true then [s.h] else []) ++ seqF n d
      let ps := pairsOf e
      let good := if s.ev = true then [] else goodPairs ps
      let bits := good.map (fun p => p.2)
      let found := !s.ev && decide (good.length < ps.length)
      exec (.mdFeed n d) s =
        .next { s with
          hv := (halfOf e).isSome
          h := (halfOf e).getD false
          pidx := saturated (s.pidx.toNat + ps.length)
          ev := s.ev || found
          epos := if found = true then saturated (s.pidx.toNat + good.length) else s.epos
          eobs := if found = true then pairBits (ps.getD good.length (false, false)) else s.eobs
          tail := pushTail s bits
          rxcrc := pushCrc s bits
          fcnt := pushCount s bits
          rcode := .ok
          rdata := BitVec.ofNat 32
            (2 ^ 31 * (s.ev || found).toNat + 2 ^ 30 * (halfOf e).isSome.toNat + 2 ^ 24 * bits.length + msbVal bits) })

/-- 42_frame.md R95: the fed bits go through the delay line, and the bits that leave it once it holds 16 go through the
LFSR. After RX.END the command is CLOSED and changes nothing. -/
def Obligations.FdFeedCompletes : Prop :=
  FeedWord .fdFeed 0x0A000000#32 ∧
  ∀ (n : Nat) (d : Half) (s : State), FeedOperands n d →
    (s.done = true → exec (.fdFeed n d) s = .next (s.answered .closed 0#32)) ∧
    (s.done = false → exec (.fdFeed n d) s =
      .next { s with
        tail := pushTail s (seqF n d)
        rxcrc := pushCrc s (seqF n d)
        fcnt := pushCount s (seqF n d)
        rcode := .ok
        rdata := pushCount s (seqF n d) })

/-- 42_frame.md R97 to R99: the first RX.END stores the verdict the tests give in their order, a later one changes
nothing; both answer the verdict word. -/
def Obligations.RxEndCompletes : Prop :=
  OnlyWord .rxEnd 0x0B000000#32 ∧
  ∀ s : State,
    (s.done = false → ∃ v : Verdict,
      exec .rxEnd s = .next { s with verd := v, done := true, rcode := .ok,
                                     rdata := BitVec.ofNat 32 (vwNumber v s.eobs) } ∧
      (v = .oddLength ↔ s.hv = true) ∧
      (v = .invalidPair ↔ s.hv = false ∧ s.ev = true) ∧
      (v = .tooShort ↔ s.hv = false ∧ s.ev = false ∧ s.fcnt.toNat < 17) ∧
      (v = .matched ↔ s.hv = false ∧ s.ev = false ∧ 17 ≤ s.fcnt.toNat ∧ s.tail = s.rxcrc) ∧
      (v = .mismatch ↔ s.hv = false ∧ s.ev = false ∧ 17 ≤ s.fcnt.toNat ∧ s.tail ≠ s.rxcrc)) ∧
    (s.done = true → exec .rxEnd s = .next (s.answered .ok (BitVec.ofNat 32 (vwNumber s.verd s.eobs))))

/-- 43_control.md R106, 10_state.md R30 to R32: RD answers the register of the map and changes nothing; the nine words
are the only legal ones of its opcode. -/
def Obligations.RdCompletes : Prop :=
  (∀ r : Reg, encode (.rd r) = 0x10000000#32 ||| BitVec.ofNat 32 (regNumberOf r) ∧
    decode (encode (.rd r)) = .ok (.rd r)) ∧
  (∀ (r : Reg) (s : State), exec (.rd r) s = .next (s.answered .ok (BitVec.ofNat 32 (regNumber s r)))) ∧
  (∀ (w : Word) (s : State), opField w = 0x10#8 → (∀ r : Reg, w ≠ encode (.rd r)) →
    acceptWord w s = .next (s.answered .illegal 0#32))

/-- 43_control.md R107, 70_reset_and_hazards.md R146: SRST leaves the reset state, which is CRC.CLR and then RX.CLR. That
it leaves the port, which is no element of the spec, as it is, is the model's choice (log entry 3). -/
def Obligations.SrstCompletes : Prop :=
  OnlyWord .srst 0x1F000000#32 ∧
  ∀ s : State,
    exec .srst s = .next { State.reset with port := s.port } ∧
    (∀ t : State, exec .crcClr s = .next t → exec .rxClr t = exec .srst s)

/-- 70_reset_and_hazards.md R148: from every state, SRST and RD 0 answer POLY 0x1021 and width 16. That the check begins
with SRST and not with the reset input is the model's choice (log entry 22). -/
def Obligations.StartUpCheckPasses : Prop :=
  ∀ s : State, startUpOk s = true ∧
    (transcript startUpWords s).2 = [⟨.ok, 0#32⟩, ⟨.ok, 0x00101021#32⟩]

/-! ## Frames and whole-machine rules -/

/-- 10_state.md R18, R34: a command changes only the elements it is listed for. That no command, SRST among them, changes
the port, which is no element of the spec, is the model's choice (log entries 1 and 3). -/
def Obligations.ElementsWrittenOnlyByTheirCommands : Prop :=
  ∀ (i : Instr) (s t : State), exec i s = .next t →
    (∀ e : Element, i.mnemonic ∉ e.writers → t.element e = s.element e) ∧ t.port = s.port

/-- 60_exceptions.md R129: the response codes of each command; an illegal word's is ILLEGAL. -/
def Obligations.ResponseCodesPerCommand : Prop :=
  (∀ (i : Instr) (s t : State), exec i s = .next t → t.rcode ∈ i.codes) ∧
  (∀ (w : Word) (s t : State), legal w = false → acceptWord w s = .next t → t.rcode = .illegal)

/-- 60_exceptions.md R130, with R128 and R136: a word answered ILLEGAL, EMPTY or CLOSED has RDATA 0 and leaves every
other element; legality is decided first, and each code has the one cause the table gives. -/
def Obligations.RejectedCommandsLeaveState : Prop :=
  ∀ (w : Word) (s t : State), acceptWord w s = .next t →
    (t.rcode ≠ .ok → t = s.answered t.rcode 0#32) ∧
    (t.rcode = .illegal ↔ legal w = false) ∧
    (t.rcode = .empty ↔ w = encode .faTail ∧ s.cne = false) ∧
    (t.rcode = .closed ↔ s.done = true ∧ legal w = true ∧ (opField w = 0x09#8 ∨ opField w = 0x0A#8))

/-- 10_state.md R23, R27: a step that neither clears the receive channel nor resets keeps an ended sequence ended with
its verdict, and keeps the record of the first invalid pair. -/
def Obligations.RecordsPersistUntilCleared : Prop :=
  ∀ (s t : State) (w : Word) (rest : List HostMove), s.port = .command w :: rest →
    w ≠ encode .rxClr → w ≠ encode .srst → step s = .next t →
    (s.done = true → t.done = true ∧ t.verd = s.verd) ∧
    (s.ev = true → t.ev = true ∧ t.epos = s.epos ∧ t.eobs = s.eobs)

/-- 00_scope.md R6, R12: the counters never wrap: only a clear lowers them. -/
def Obligations.CountersNeverWrap : Prop :=
  ∀ (i : Instr) (s t : State), exec i s = .next t → i.clearsRx = false →
    s.pidx.toNat ≤ t.pidx.toNat ∧ s.fcnt.toNat ≤ t.fcnt.toNat ∧
    (s.pidx = 0xFFFFFFFF#32 → t.pidx = 0xFFFFFFFF#32) ∧ (s.fcnt = 0xFFFFFFFF#32 → t.fcnt = 0xFFFFFFFF#32)

/-- 20_memory.md R43: repeating an idempotent command gives the same state and response; NOP, RD, FA.TAIL and MENC
change the response only, RX.END also DONE and VERD, and only once. -/
def Obligations.IdempotentCommands : Prop :=
  (∀ (i : Instr) (s t : State), isIdempotent i = true → exec i s = .next t → exec i t = .next t) ∧
  (∀ (s t : State) (n : Nat) (d : Half) (r : Reg),
    exec .nop s = .next t ∨ exec (.rd r) s = .next t ∨ exec .faTail s = .next t ∨ exec (.menc n d) s = .next t →
      t = s.answered t.rcode t.rdata) ∧
  (∀ s t : State, exec .rxEnd s = .next t →
    t = { s with done := t.done, verd := t.verd, rcode := t.rcode, rdata := t.rdata } ∧
    (s.done = true → t = s.answered t.rcode t.rdata))

/-- 10_state.md R33: every command, legal or not, writes the response registers, and none reads them. With no move on the
port they persist, since the step then changes nothing: the model's reading of R15 (log entry 2). -/
def Obligations.ResponseRegistersNeverRead : Prop :=
  (∀ (w : Word) (s : State) (c : RCode) (v : Word), acceptWord w (s.answered c v) = acceptWord w s) ∧
  (∀ s : State, s.port = [] → step s = .next s)

/-- 60_exceptions.md R141, 70_reset_and_hazards.md R149: the transmit path and the receive path are disjoint: neither
reads nor writes what the other holds. -/
def Obligations.TransmitReceiveDisjoint : Prop :=
  (∀ (i : Instr) (s t : State) (c : Half) (b : Bool), isReceive i = true → exec i s = .next t →
    t.crc = s.crc ∧ t.cne = s.cne ∧
    exec i { s with crc := c, cne := b } = .next { t with crc := c, cne := b }) ∧
  (∀ (i : Instr) (s u t v : State), isTransmit i = true → s.crc = u.crc → s.cne = u.cne →
    exec i s = .next t → exec i u = .next v →
    t.crc = v.crc ∧ t.cne = v.cne ∧ t.rcode = v.rcode ∧ t.rdata = v.rdata ∧ SameRx t s ∧ SameRx v u)

/-- 10_state.md R36: RD reaches every element but the response registers: states that read alike agree on them. -/
def Obligations.RdReachesEveryElement : Prop :=
  ∀ s t : State, (∀ r : Reg, s.readReg r = t.readReg r) → s.crc = t.crc ∧ s.cne = t.cne ∧ SameRx s t

/-! ## Invariants -/

/-- 10_state.md R37 holds after reset; so does the stored verdict's agreement, there being none. -/
def Obligations.ResetSatisfiesInvariant : Prop :=
  State.reset.Inv ∧ State.reset.VerdictStands

/-- 10_state.md R37: every step keeps the invariant, so it holds in every state that a run from reset reaches, whatever
the host does. -/
def Obligations.StepKeepsInvariant : Prop :=
  (∀ s t : State, s.Inv → step s = .next t → t.Inv) ∧
  (∀ (n : Nat) (moves : List HostMove) (t : State),
    Host.Core.run Sys2Proof.core n { State.reset with port := moves } = .next t → t.Inv)

/-- 42_frame.md R97, 10_state.md R27: while DONE = 1 the stored verdict is the verdict of the receive channel, which no
command but a clear changes. -/
def Obligations.StepKeepsStoredVerdict : Prop :=
  ∀ s t : State, s.VerdictStands → step s = .next t → t.VerdictStands

/-! ## The reference functions and the commands that realise them -/

/-- 40_crc16.md R63, bit by bit: the LFSR shifts, and the feedback (bit 15 XOR the input) enters at the bits of the
polynomial 0x1021, which are 12, 5 and 0. -/
def Obligations.CrcStepTaps : Prop :=
  ∀ (r : Half) (b : Bool) (i : Nat), i < 16 →
    (crcStep r b).getLsbD i =
      ((decide (i ≠ 0) && r.getLsbD (i - 1)) ^^
        (decide (i = 0 ∨ i = 5 ∨ i = 12) && (r.getLsbD 15 ^^ b)))

/-- 40_crc16.md R63 corner cases, R65 and R72. -/
def Obligations.CrcReferenceValues : Prop :=
  crcStep 0x0000#16 false = 0x0000#16 ∧ crcStep 0x0000#16 true = 0x1021#16 ∧
  crcStep 0x8000#16 true = 0x0000#16 ∧ crcStep 0x8000#16 false = 0x1021#16 ∧
  crcStep 0xFFFF#16 false = 0xEFDF#16 ∧ crcStep 0xFFFF#16 true = 0xFFFE#16 ∧
  crc16 [] = 0x0000#16 ∧
  crc16 (bits16 0x3132#16 ++ bits16 0x3334#16 ++ bits16 0x3536#16 ++ bits16 0x3738#16 ++ seqF 8 0x39#16) = 0x31C3#16

/-- 40_crc16.md R71: linearity, and what it says of a corrupted frame; the pattern of V-FR-9 passes. -/
def Obligations.CrcLinear : Prop :=
  (∀ (r1 r2 : Half) (b1 b2 : Bool), crcStep (r1 ^^^ r2) (b1 ^^ b2) = crcStep r1 b1 ^^^ crcStep r2 b2) ∧
  (∀ s t : BitSeq, s.length = t.length → crc16 (xorSeq s t) = crc16 s ^^^ crc16 t) ∧
  (∀ d e : BitSeq, 1 ≤ d.length → e.length = (buildFrame d).length →
    ((∃ rc cc, verifyFrame (xorSeq (buildFrame d) e) = .matched rc cc) ↔ crc16 e = 0x0000#16)) ∧
  crc16 (true :: bits16 0x1021#16) = 0x0000#16

/-- 40_crc16.md R70: the residue law, its converse, and verification by the residue. -/
def Obligations.CrcResidue : Prop :=
  (∀ d : BitSeq, crc16 (d ++ bits16 (crc16 d)) = 0x0000#16) ∧
  (∀ c r : Half, crcRun c (bits16 r) = 0x0000#16 ↔ r = c) ∧
  (∀ f : BitSeq, 17 ≤ f.length →
    ((∃ rc cc, verifyFrame f = .matched rc cc) ↔ crc16 f = 0x0000#16))

/-- 40_crc16.md R68: after CRC.CLR, CRC.FEED chunks of a sequence (other units' commands may stand between) leave its
CRC in the register and answer it; after CRC.CLR alone the CRC is that of the empty sequence. -/
def Obligations.CrcFeedsComputeCrc16 : Prop :=
  (∀ (is : List Instr) (s : State), (∀ i ∈ is, i.WellFormed ∧ i ≠ .crcClr ∧ i ≠ .srst) →
    let fed := (is.map crcBits).flatten
    let t := (transcript (encode .crcClr :: is.map encode) s).1
    t.crc = crc16 fed ∧ (t.cne = true ↔ fed ≠ [])) ∧
  (∀ (is : List Instr) (s : State) (n : Nat) (d : Half), (∀ i ∈ is, i.WellFormed ∧ i ≠ .crcClr ∧ i ≠ .srst) →
    FeedOperands n d →
    lastResponse (transcript (encode .crcClr :: (is ++ [Instr.crcFeed n d]).map encode) s).2 =
      ⟨.ok, (crc16 ((is.map crcBits).flatten ++ seqF n d)).setWidth 32⟩)

/-- 41_manchester.md R74: twice the length, only valid pairs, injective. -/
def Obligations.EncodeShape : Prop :=
  (∀ s : BitSeq, (encodeBits s).length = 2 * s.length) ∧
  (∀ s : BitSeq, ∀ p ∈ pairsOf (encodeBits s), p = (true, false) ∨ p = (false, true)) ∧
  (∀ s t : BitSeq, encodeBits s = encodeBits t → s = t)

/-- 41_manchester.md R76: decode inverts encode; an odd length fails with OddLength; otherwise an invalid pair fails
with InvalidPair at the first such pair. -/
def Obligations.DecodeInvertsEncode : Prop :=
  (∀ x : BitSeq, decodeBits (encodeBits x) = .ok x) ∧
  (∀ e : BitSeq, e.length % 2 = 1 → decodeBits e = .error .oddLength) ∧
  (∀ e : BitSeq, e.length % 2 = 0 → ∀ (k : Nat) (p : Bool × Bool),
    (decodeBits e = .error (.invalidPair k p) ↔
      (pairsOf e)[k]? = some p ∧ p.1 = p.2 ∧ ∀ j q, j < k → (pairsOf e)[j]? = some q → q.1 ≠ q.2)) ∧
  (∀ e x : BitSeq, decodeBits e = .ok x → e = encodeBits x)

/-- 41_manchester.md R78: a chunk's MENC response is the encoding of the chunk, in whatever state it is issued, and the
encodings of a cut, in order, are the encoding of the sequence. -/
def Obligations.MencChunksEncode : Prop :=
  (∀ (c : BitSeq) (s t : State), 1 ≤ c.length → c.length ≤ 16 → acceptWord (encode (Asm.feedSeq .menc c)) s = .next t →
    t.rcode = .ok ∧ lowBits (2 * c.length) t.rdata = encodeBits c) ∧
  (∀ (cs : List BitSeq) (s : State), IsCut cs →
    mencBits cs (transcript (feedWords .menc cs) s).2 = encodeBits cs.flatten)

/-- 41_manchester.md R79: after m encoded bits since RX.CLR, HV is m mod 2 and PIDX counts the m/2 pairs. -/
def Obligations.DecoderCountsBits : Prop :=
  ∀ (cs : List BitSeq) (s : State), IsCut cs →
    let t := (transcript (encode .rxClr :: feedWords .mdFeed cs) s).1
    (t.hv = true ↔ cs.flatten.length % 2 = 1) ∧ t.pidx.toNat = min (cs.flatten.length / 2) 4294967295

/-- 41_manchester.md R85: the cut of an encoded sequence does not matter. -/
def Obligations.MdFeedChunkingIndependent : Prop :=
  ∀ (cs ds : List BitSeq) (s : State), IsCut cs → IsCut ds → cs.flatten = ds.flatten →
    let a := transcript (feedWords .mdFeed cs) s
    let b := transcript (feedWords .mdFeed ds) s
    a.1.answered .ok 0#32 = b.1.answered .ok 0#32 ∧
    (a.2.map deliveredBits).flatten = (b.2.map deliveredBits).flatten

/-- 41_manchester.md R84: RX.CLR, MD.FEED chunks, RX.END compute decode. -/
def Obligations.DecoderComputesDecode : Prop :=
  ∀ (cs : List BitSeq) (s : State), IsCut cs →
    let e := cs.flatten
    let run := transcript (receiveRun .mdFeed cs) s
    let t := run.1
    (decodeBits e = .error .oddLength ↔ t.verd = .oddLength) ∧
    ((∃ k p, decodeBits e = .error (.invalidPair k p)) ↔ t.verd = .invalidPair) ∧
    (∀ k p, decodeBits e = .error (.invalidPair k p) →
      t.eobs = pairBits p ∧ t.epos = saturated k ∧ t.vw.extractLsb' 5 2 = pairBits p) ∧
    ((∃ x, decodeBits e = .ok x) ↔ (t.verd = .matched ∨ t.verd = .mismatch ∨ t.verd = .tooShort)) ∧
    (∀ x, decodeBits e = .ok x →
      (run.2.tail.dropLast.map deliveredBits).flatten = x ∧ t.fcnt = saturated x.length)

/-- 41_manchester.md R86: with EV = 1 no bit is delivered or forwarded, and an invalid pair never yields a bit. -/
def Obligations.NoBitFromOrAfterInvalidPair : Prop :=
  (∀ (n : Nat) (d : Half) (s t : State), FeedOperands n d → s.ev = true → exec (.mdFeed n d) s = .next t →
    t.tail = s.tail ∧ t.rxcrc = s.rxcrc ∧ t.fcnt = s.fcnt ∧ deliveredBits t.response = [] ∧ t.ev = true) ∧
  (∀ (e : Bool) (s : State), s.hv = true → e = s.h → (mdStep e s).2 = none ∧ (mdStep e s).1.ev = true)

/-- 10_state.md R24 to R26: what TAIL, RXCRC and FCNT hold after F frame bits since RX.CLR. -/
def Obligations.DisassemblerSplitsTheFrame : Prop :=
  ∀ (cs : List BitSeq) (s : State), IsCut cs →
    let f := cs.flatten
    let t := (transcript (encode .rxClr :: feedWords .fdFeed cs) s).1
    (16 ≤ f.length → t.tail = val16 (f.drop (f.length - 16))) ∧
    (f.length < 16 → t.tail.toNat = msbVal f) ∧
    t.rxcrc = crc16 (f.take (f.length - 16)) ∧
    t.fcnt = saturated f.length ∧ (t.fcnt.toNat < 17 ↔ f.length < 17)

/-- 42_frame.md R100: RX.CLR, FD.FEED chunks, RX.END compute verify_frame. -/
def Obligations.DisassemblerComputesVerify : Prop :=
  ∀ (cs : List BitSeq) (s : State), IsCut cs →
    let f := cs.flatten
    let t := (transcript (receiveRun .fdFeed cs) s).1
    (verifyFrame f = .tooShort ↔ t.verd = .tooShort) ∧
    ((∃ rc cc, verifyFrame f = .matched rc cc) ↔ t.verd = .matched) ∧
    ((∃ rc cc, verifyFrame f = .mismatch rc cc) ↔ t.verd = .mismatch) ∧
    (∀ rc cc, verifyFrame f = .matched rc cc ∨ verifyFrame f = .mismatch rc cc → t.tail = rc ∧ t.rxcrc = cc)

/-- 42_frame.md R88, R91: CRC.CLR, CRC.FEED chunks of the data, FA.TAIL give the frame's CRC field; the frame is the
data and that field, 16 bits longer than the data; MENC over chunks of the frame as it then stands gives its encoding. -/
def Obligations.AssemblerBuildsTheFrame : Prop :=
  ∀ (cs : List BitSeq) (s : State), IsCut cs → cs ≠ [] →
    let d := cs.flatten
    let run := transcript (encode .crcClr :: (feedWords .crcFeed cs ++ [encode .faTail])) s
    let r := lastResponse run.2
    r = ⟨.ok, (crc16 d).setWidth 32⟩ ∧ d ++ bits16 (r.data.setWidth 16) = buildFrame d ∧
    (buildFrame d).length = d.length + 16 ∧ 17 ≤ (buildFrame d).length ∧
    (encodeBits (buildFrame d)).length = 2 * (buildFrame d).length ∧
    (∀ (inject : BitSeq → BitSeq) (fs : List BitSeq), IsCut fs → fs.flatten = inject (buildFrame d) →
      mencBits fs (transcript (feedWords .menc fs) run.1).2 = encodeForTransmission d inject)

/-- 42_frame.md R102: RX.CLR, MD.FEED chunks, RX.END compute decode_and_verify. -/
def Obligations.ReceivePathComputesDecodeAndVerify : Prop :=
  ∀ (cs : List BitSeq) (s : State), IsCut cs →
    let e := cs.flatten
    let t := (transcript (receiveRun .mdFeed cs) s).1
    t.verd = (decodeAndVerify e).verdict ∧
    (∀ k p, decodeAndVerify e = .invalidPair k p → t.epos = saturated k ∧ t.eobs = pairBits p) ∧
    (∀ rc cc, decodeAndVerify e = .matched rc cc ∨ decodeAndVerify e = .mismatch rc cc →
      t.tail = rc ∧ t.rxcrc = cc)

/-- 42_frame.md R103: an unharmed frame matches, every single flip is a mismatch, and the blind spot is kept: some
corrupted frame matches. -/
def Obligations.RoundTripAndSingleFlips : Prop :=
  (∀ d : BitSeq, d ≠ [] →
    verifyFrame (buildFrame d) = .matched (crc16 d) (crc16 d) ∧
    decodeBits (encodeBits (buildFrame d)) = .ok (buildFrame d) ∧
    (decodeAndVerify (encodeForTransmission d id)).verdict = .matched) ∧
  (∀ (d : BitSeq) (pos : Nat), d ≠ [] → pos < (buildFrame d).length →
    (decodeAndVerify (encodeForTransmission d (fun f => flipBit f pos))).verdict = .mismatch) ∧
  (∃ d e : BitSeq, d ≠ [] ∧ e.length = (buildFrame d).length ∧ true ∈ e ∧
    (decodeAndVerify (encodeForTransmission d (fun f => xorSeq f e))).verdict = .matched)

/-- 42_frame.md R104: of mixed feeds, the disassembler sees the bits of both commands in command order, the decoder
only those of MD.FEED. -/
def Obligations.MixedFeedsAreDefined : Prop :=
  ∀ (is : List Instr) (s : State), s.done = false → (∀ i ∈ is, isFeed i) →
    let run := transcript (is.map encode) s
    let pushed := (List.zipWith pushedBits is run.2).flatten
    run.1.tail = pushTail s pushed ∧ run.1.rxcrc = pushCrc s pushed ∧ run.1.fcnt = pushCount s pushed ∧
    SameDecoder run.1 (transcript ((is.filter isMdFeed).map encode) s).1

/-! ## The host around the core -/

/-- 49_host.md R120 to R122, position by position: the injector's operations toggle exactly the positions they name
that lie in the frame; flip_k fails exactly when the count is out of range. -/
def Obligations.InjectorTogglesExactly : Prop :=
  (∀ (f : BitSeq) (pos i : Nat),
    (flipBit f pos)[i]? = if i = pos then f[i]?.map (fun b => !b) else f[i]?) ∧
  (∀ (f : BitSeq) (pos n i : Nat),
    (flipBurst f pos n)[i]? = if pos ≤ i ∧ i < pos + n then f[i]?.map (fun b => !b) else f[i]?) ∧
  (∀ (f : BitSeq) (k : Nat) (draw : List Nat), (flipK f k draw = .error .invalidCount ↔ k < 1 ∨ f.length < k)) ∧
  (∀ (f g : BitSeq) (k : Nat) (draw : List Nat), ValidDraw f.length k draw → flipK f k draw = .ok g →
    ∀ i : Nat, g[i]? = if i ∈ draw then f[i]?.map (fun b => !b) else f[i]?)

/-- 49_host.md R114, R115: the payload has one byte a bit and parses back under every policy; a byte that is no bit ends
the parse as the policy says, or is dropped. R117: `send` writes the bytes in order and is complete exactly when all are
written, which it is once the attempts have room for them and none fails; it stops at a failing write only.
`receive_until_close` gives all the bytes, and nothing at a read error. -/
def Obligations.WirePayloadParses : Prop :=
  (∀ s : BitSeq, (serialize s).length = s.length) ∧
  (∀ (policy : Config.BadCharPolicy) (s : BitSeq), parse policy (serialize s) = .ok s) ∧
  (∀ bytes : List Byte, (∃ b ∈ bytes, b ≠ 0x30#8 ∧ b ≠ 0x31#8) →
    parse .structural bytes = .error .structural ∧ parse .detected bytes = .error .detected) ∧
  (∀ bytes : List Byte,
    parse .skip bytes = .ok ((bytes.filter (fun b => b == 0x30#8 || b == 0x31#8)).map (fun b => b == 0x31#8))) ∧
  (∀ (writes : List WriteAttempt) (bytes : List Byte),
    (sendBytes writes bytes).stream <+: bytes ∧
    ((sendBytes writes bytes).status = .complete ↔ (sendBytes writes bytes).stream = bytes) ∧
    ((sendBytes writes bytes).status = .writeError → .fails ∈ writes) ∧
    (.fails ∉ writes → bytes.length ≤ (writes.map WriteAttempt.room).sum → (sendBytes writes bytes).status = .complete) ∧
    (.fails ∈ writes → (sendBytes writes bytes).status ≠ .retrying)) ∧
  (∀ (reads : List ReadAttempt) (stream : List Byte), Arrives reads stream → receiveUntilClose reads = some stream) ∧
  (∀ reads : List ReadAttempt, .fails ∈ reads → receiveUntilClose reads = none)

/-- 49_host.md R119, R122: the sender's input errors; nothing is transmitted, a bad data string issues no command, and a
run that stops exits with a status that is not 0. That an even count the command line rejects has the error name of a count
out of range is the model's choice (log entry 14), and so is that a write error exits with a status that is not 0 (log
entry 17). -/
def Obligations.SenderRejectsBadInput : Prop :=
  (∀ (p : Config.HostParams) (c : FaultChoice) (s : State), send p c [] s = (s, .error .emptyData)) ∧
  (∀ (p : Config.HostParams) (c : FaultChoice) (s : State) (text : List Char),
    (∃ ch ∈ text, ch ≠ '0' ∧ ch ≠ '1') → send p c text s = (s, .error .nonBinary)) ∧
  (∀ (p : Config.HostParams) (s : State) (text : List Char) (k : Nat) (draw : List Nat),
    text ≠ [] → (∀ ch ∈ text, ch = '0' ∨ ch = '1') → k < 1 ∨ text.length + 16 < k →
    (send p (.oddCount k draw) text s).2 = .error .invalidCount) ∧
  (∀ (p : Config.HostParams) (c : FaultChoice) (s : State) (text : List Char) (e : SenderError),
    (send p c text s).2 = .error e → ∃ n : Nat, senderExit p (send p c text s).2 = some n ∧ n ≠ 0) ∧
  (∀ (p : Config.HostParams) (c : FaultChoice) (s : State) (text : List Char) (writes : List WriteAttempt) (e : SenderError),
    (send p c text s).2 = .error e → (transmit p c text writes s).2 = ⟨[], some (.error e)⟩) ∧
  (∀ (p : Config.HostParams) (c : FaultChoice) (s : State) (text : List Char) (writes : List WriteAttempt)
    (r : Except SenderError Nat) (e : SenderError),
    (transmit p c text writes s).2.result = some r → r = .error e → ∃ n : Nat, senderExit p r = some n ∧ n ≠ 0)

/-- 49_host.md R116, R118, 60_exceptions.md R134: VW.DET and the report of each verdict, NONE not being read as no error;
message and exit code; a transport error or an empty payload; the core itself answers TOO_SHORT to an empty sequence. -/
def Obligations.ReceiverReports : Prop :=
  (∀ s : State, (s.vw.getLsbD 4 = true ↔ s.verd ∈ [.mismatch, .tooShort, .oddLength, .invalidPair]) ∧
    (reportOf s.vw = some .errorDetected ↔ s.verd ∈ [.mismatch, .tooShort, .oddLength, .invalidPair]) ∧
    (reportOf s.vw = some .noErrorDetected ↔ s.verd = .matched)) ∧
  (∀ (policy : Config.BadCharPolicy) (s : State),
    receive policy none s = (s, ⟨some .structuralFailure, none⟩) ∧
    receive policy (some []) s = (s, ⟨some .structuralFailure, none⟩)) ∧
  Report.noErrorDetected.message = some "NO ERROR DETECTED" ∧ Report.errorDetected.message = some "ERROR DETECTED" ∧
  Report.noErrorDetected.exitCode = 0 ∧ Report.errorDetected.exitCode = 0 ∧ Report.structuralFailure.exitCode = 1 ∧
  (∀ s : State, (transcript (receiveRun .mdFeed []) s).2 = [⟨.ok, 0#32⟩, ⟨.ok, 0x13#32⟩])

/-- 49_host.md R112, R113, R118 with 42_frame.md R103: every run of the receiver has a report, whatever arrives; and data
sent through one core and received by another, whatever states the two are in: unharmed it is reported without error and the
frame is kept; with any single flip the error is detected, and the exit code is 0. That the payload arrives as it was sent
is what R117 says of the transport (log entry 15); where the host cuts the sequences is the model's choice (log entry 21).
Over the transport, the run has sent the whole payload exactly when its result is that number of bytes, and then the
receiver's report is of the whole payload; a run that a write error stops has sent a part of it. -/
def Obligations.TransmissionEndToEnd : Prop :=
  (∀ (policy : Config.BadCharPolicy) (payload : Option (List Byte)) (r : State),
    ∃ report : Report, (receive policy payload r).2.report = some report) ∧
  ∀ (p : Config.HostParams) (policy : Config.BadCharPolicy) (text : List Char) (d : BitSeq) (s r : State),
    dataBits text = .ok d →
    (∃ payload, (send p .noError text s).2 = .ok payload ∧ payload.length = 2 * (d.length + 16) ∧
      (receive policy (some payload) r).2 = ⟨some .noErrorDetected, some (buildFrame d)⟩) ∧
    (p.Admissible (d.length + 16) → ∃ payload, (send p .single text s).2 = .ok payload ∧
      (receive policy (some payload) r).2.report = some .errorDetected ∧ Report.errorDetected.exitCode = 0) ∧
    (∀ (c : FaultChoice) (payload : List Byte) (writes : List WriteAttempt) (reads : List ReadAttempt),
      (send p c text s).2 = .ok payload →
      let t := (transmit p c text writes s).2
      t.stream <+: payload ∧
      (t.result = some (.ok payload.length) ↔ t.stream = payload) ∧
      (t.result = some (.error .writeError) → .fails ∈ writes ∧ t.stream ≠ payload) ∧
      (Arrives reads t.stream → t.result = some (.ok payload.length) →
        receive policy (receiveUntilClose reads) r = receive policy (some payload) r))
end

