-- ==== Sys2Proof/Laws/Host.lean ====
section
/-! SUPPORT. What the host's functions answer, as lemmas. -/

namespace Sys2Proof.Harness

open Sys2Proof.Machine

/-- Every failing sender exits with a status that is not 0, whatever the parameters (49_host.md R119). -/
@[simp] theorem SenderError.exitCode_ne_zero (p : Config.HostParams) (e : SenderError) : e.exitCode p ≠ 0 := by
  cases e <;> simp [SenderError.exitCode]

@[simp] theorem senderExit_error {α : Type} (p : Config.HostParams) (e : SenderError) :
    senderExit p (.error e : Except SenderError α) = some (e.exitCode p) := rfl

@[simp] theorem senderExit_ok {α : Type} (p : Config.HostParams) (a : α) : senderExit p (.ok a) = none := rfl

@[simp] theorem sendBytes_nil (ws : List WriteAttempt) : sendBytes ws [] = ⟨[], .complete⟩ := by
  cases ws <;> simp [sendBytes]

/-- One more attempt to write, with bytes left (49_host.md R117). -/
theorem sendBytes_takes (n : Nat) (ws : List WriteAttempt) (bytes : List Byte) (h : bytes ≠ []) :
    sendBytes (.takes n :: ws) bytes =
      ⟨bytes.take n ++ (sendBytes ws (bytes.drop n)).stream, (sendBytes ws (bytes.drop n)).status⟩ := by
  cases bytes with
  | nil => exact absurd rfl h
  | cons b bs => rfl

/-- Everything `receive_until_close` can answer (49_host.md R117). -/
theorem receiveUntilClose_eq (reads : List ReadAttempt) :
    receiveUntilClose reads =
      if .fails ∈ reads then none else some (reads.map ReadAttempt.given).flatten := by
  induction reads with
  | nil => rfl
  | cons r rs ih =>
    cases r with
    | fails => simp [receiveUntilClose]
    | gives bytes =>
      rw [receiveUntilClose, ih]
      by_cases h : ReadAttempt.fails ∈ rs <;> simp [h, ReadAttempt.given]

/-- The reads of a reliable stream give the stream. -/
theorem receiveUntilClose_arrives (reads : List ReadAttempt) (stream : List Byte) (h : Arrives reads stream) :
    receiveUntilClose reads = some stream := by
  rw [receiveUntilClose_eq, if_neg h.1, h.2]

/-- The sender's whole flow is its flow up to the payload, then the transport. -/
theorem transmit_ok (p : Config.HostParams) (c : FaultChoice) (text : List Char) (writes : List WriteAttempt) (s : State)
    (payload : List Byte) (h : (send p c text s).2 = .ok payload) :
    transmit p c text writes s =
      ((send p c text s).1, ⟨(sendBytes writes payload).stream, (sendBytes writes payload).result⟩) := by
  unfold transmit
  rcases hs : send p c text s with ⟨t, r⟩
  rw [hs] at h
  subst h
  rfl

/-- The report of a state's verdict word, by verdict (49_host.md R118, 60_exceptions.md R134). -/
theorem reportOf_vw (s : State) :
    reportOf s.vw =
      match s.verd with
      | .none => none
      | .matched => some .noErrorDetected
      | .mismatch => some .errorDetected
      | .tooShort => some .errorDetected
      | .oddLength => some .errorDetected
      | .invalidPair => some .errorDetected := by
  have key : ∀ (o : BitVec 2) (v : Verdict),
      reportOf ((o ++ BitVec.ofBool v.det ++ v.code : BitVec (2 + 1 + 4)).setWidth 32) =
        match v with
        | .none => none
        | .matched => some .noErrorDetected
        | .mismatch => some .errorDetected
        | .tooShort => some .errorDetected
        | .oddLength => some .errorDetected
        | .invalidPair => some .errorDetected := by
    intro o v
    cases v <;> revert o <;> decide
  exact key s.obs s.verd

end Sys2Proof.Harness
end

