-- ==== Sys2Proof/Laws/State.lean ====
section
/-! SUPPORT. One lemma per field per named update of State. -/

namespace Sys2Proof.Machine

/-! `State.respond` -/

@[simp] theorem State.respond_crc (c : RCode) (d : Word) (s : State) : (s.respond c d).crc = s.crc := rfl
@[simp] theorem State.respond_cne (c : RCode) (d : Word) (s : State) : (s.respond c d).cne = s.cne := rfl
@[simp] theorem State.respond_hv (c : RCode) (d : Word) (s : State) : (s.respond c d).hv = s.hv := rfl
@[simp] theorem State.respond_h (c : RCode) (d : Word) (s : State) : (s.respond c d).h = s.h := rfl
@[simp] theorem State.respond_pidx (c : RCode) (d : Word) (s : State) : (s.respond c d).pidx = s.pidx := rfl
@[simp] theorem State.respond_ev (c : RCode) (d : Word) (s : State) : (s.respond c d).ev = s.ev := rfl
@[simp] theorem State.respond_epos (c : RCode) (d : Word) (s : State) : (s.respond c d).epos = s.epos := rfl
@[simp] theorem State.respond_eobs (c : RCode) (d : Word) (s : State) : (s.respond c d).eobs = s.eobs := rfl
@[simp] theorem State.respond_tail (c : RCode) (d : Word) (s : State) : (s.respond c d).tail = s.tail := rfl
@[simp] theorem State.respond_rxcrc (c : RCode) (d : Word) (s : State) : (s.respond c d).rxcrc = s.rxcrc := rfl
@[simp] theorem State.respond_fcnt (c : RCode) (d : Word) (s : State) : (s.respond c d).fcnt = s.fcnt := rfl
@[simp] theorem State.respond_done (c : RCode) (d : Word) (s : State) : (s.respond c d).done = s.done := rfl
@[simp] theorem State.respond_verd (c : RCode) (d : Word) (s : State) : (s.respond c d).verd = s.verd := rfl
@[simp] theorem State.respond_rdata (c : RCode) (d : Word) (s : State) : (s.respond c d).rdata = d := rfl
@[simp] theorem State.respond_rcode (c : RCode) (d : Word) (s : State) : (s.respond c d).rcode = c := rfl
@[simp] theorem State.respond_port (c : RCode) (d : Word) (s : State) : (s.respond c d).port = s.port := rfl

/-! `State.rejectCommand` -/

@[simp] theorem State.rejectCommand_crc (c : RCode) (s : State) : (s.rejectCommand c).crc = s.crc := rfl
@[simp] theorem State.rejectCommand_cne (c : RCode) (s : State) : (s.rejectCommand c).cne = s.cne := rfl
@[simp] theorem State.rejectCommand_hv (c : RCode) (s : State) : (s.rejectCommand c).hv = s.hv := rfl
@[simp] theorem State.rejectCommand_h (c : RCode) (s : State) : (s.rejectCommand c).h = s.h := rfl
@[simp] theorem State.rejectCommand_pidx (c : RCode) (s : State) : (s.rejectCommand c).pidx = s.pidx := rfl
@[simp] theorem State.rejectCommand_ev (c : RCode) (s : State) : (s.rejectCommand c).ev = s.ev := rfl
@[simp] theorem State.rejectCommand_epos (c : RCode) (s : State) : (s.rejectCommand c).epos = s.epos := rfl
@[simp] theorem State.rejectCommand_eobs (c : RCode) (s : State) : (s.rejectCommand c).eobs = s.eobs := rfl
@[simp] theorem State.rejectCommand_tail (c : RCode) (s : State) : (s.rejectCommand c).tail = s.tail := rfl
@[simp] theorem State.rejectCommand_rxcrc (c : RCode) (s : State) : (s.rejectCommand c).rxcrc = s.rxcrc := rfl
@[simp] theorem State.rejectCommand_fcnt (c : RCode) (s : State) : (s.rejectCommand c).fcnt = s.fcnt := rfl
@[simp] theorem State.rejectCommand_done (c : RCode) (s : State) : (s.rejectCommand c).done = s.done := rfl
@[simp] theorem State.rejectCommand_verd (c : RCode) (s : State) : (s.rejectCommand c).verd = s.verd := rfl
@[simp] theorem State.rejectCommand_rdata (c : RCode) (s : State) : (s.rejectCommand c).rdata = 0#32 := rfl
@[simp] theorem State.rejectCommand_rcode (c : RCode) (s : State) : (s.rejectCommand c).rcode = c := rfl
@[simp] theorem State.rejectCommand_port (c : RCode) (s : State) : (s.rejectCommand c).port = s.port := rfl

/-! `State.clearCrc` -/

@[simp] theorem State.clearCrc_crc (s : State) : (s.clearCrc).crc = 0x0000#16 := rfl
@[simp] theorem State.clearCrc_cne (s : State) : (s.clearCrc).cne = false := rfl
@[simp] theorem State.clearCrc_hv (s : State) : (s.clearCrc).hv = s.hv := rfl
@[simp] theorem State.clearCrc_h (s : State) : (s.clearCrc).h = s.h := rfl
@[simp] theorem State.clearCrc_pidx (s : State) : (s.clearCrc).pidx = s.pidx := rfl
@[simp] theorem State.clearCrc_ev (s : State) : (s.clearCrc).ev = s.ev := rfl
@[simp] theorem State.clearCrc_epos (s : State) : (s.clearCrc).epos = s.epos := rfl
@[simp] theorem State.clearCrc_eobs (s : State) : (s.clearCrc).eobs = s.eobs := rfl
@[simp] theorem State.clearCrc_tail (s : State) : (s.clearCrc).tail = s.tail := rfl
@[simp] theorem State.clearCrc_rxcrc (s : State) : (s.clearCrc).rxcrc = s.rxcrc := rfl
@[simp] theorem State.clearCrc_fcnt (s : State) : (s.clearCrc).fcnt = s.fcnt := rfl
@[simp] theorem State.clearCrc_done (s : State) : (s.clearCrc).done = s.done := rfl
@[simp] theorem State.clearCrc_verd (s : State) : (s.clearCrc).verd = s.verd := rfl
@[simp] theorem State.clearCrc_rdata (s : State) : (s.clearCrc).rdata = s.rdata := rfl
@[simp] theorem State.clearCrc_rcode (s : State) : (s.clearCrc).rcode = s.rcode := rfl
@[simp] theorem State.clearCrc_port (s : State) : (s.clearCrc).port = s.port := rfl

/-! `State.feedCrc` -/

@[simp] theorem State.feedCrc_crc (b : BitSeq) (s : State) : (s.feedCrc b).crc = crcRun s.crc b := rfl
@[simp] theorem State.feedCrc_cne (b : BitSeq) (s : State) : (s.feedCrc b).cne = true := rfl
@[simp] theorem State.feedCrc_hv (b : BitSeq) (s : State) : (s.feedCrc b).hv = s.hv := rfl
@[simp] theorem State.feedCrc_h (b : BitSeq) (s : State) : (s.feedCrc b).h = s.h := rfl
@[simp] theorem State.feedCrc_pidx (b : BitSeq) (s : State) : (s.feedCrc b).pidx = s.pidx := rfl
@[simp] theorem State.feedCrc_ev (b : BitSeq) (s : State) : (s.feedCrc b).ev = s.ev := rfl
@[simp] theorem State.feedCrc_epos (b : BitSeq) (s : State) : (s.feedCrc b).epos = s.epos := rfl
@[simp] theorem State.feedCrc_eobs (b : BitSeq) (s : State) : (s.feedCrc b).eobs = s.eobs := rfl
@[simp] theorem State.feedCrc_tail (b : BitSeq) (s : State) : (s.feedCrc b).tail = s.tail := rfl
@[simp] theorem State.feedCrc_rxcrc (b : BitSeq) (s : State) : (s.feedCrc b).rxcrc = s.rxcrc := rfl
@[simp] theorem State.feedCrc_fcnt (b : BitSeq) (s : State) : (s.feedCrc b).fcnt = s.fcnt := rfl
@[simp] theorem State.feedCrc_done (b : BitSeq) (s : State) : (s.feedCrc b).done = s.done := rfl
@[simp] theorem State.feedCrc_verd (b : BitSeq) (s : State) : (s.feedCrc b).verd = s.verd := rfl
@[simp] theorem State.feedCrc_rdata (b : BitSeq) (s : State) : (s.feedCrc b).rdata = s.rdata := rfl
@[simp] theorem State.feedCrc_rcode (b : BitSeq) (s : State) : (s.feedCrc b).rcode = s.rcode := rfl
@[simp] theorem State.feedCrc_port (b : BitSeq) (s : State) : (s.feedCrc b).port = s.port := rfl

/-! `State.clearRx` -/

@[simp] theorem State.clearRx_crc (s : State) : (s.clearRx).crc = s.crc := rfl
@[simp] theorem State.clearRx_cne (s : State) : (s.clearRx).cne = s.cne := rfl
@[simp] theorem State.clearRx_hv (s : State) : (s.clearRx).hv = false := rfl
@[simp] theorem State.clearRx_h (s : State) : (s.clearRx).h = false := rfl
@[simp] theorem State.clearRx_pidx (s : State) : (s.clearRx).pidx = 0#32 := rfl
@[simp] theorem State.clearRx_ev (s : State) : (s.clearRx).ev = false := rfl
@[simp] theorem State.clearRx_epos (s : State) : (s.clearRx).epos = 0#32 := rfl
@[simp] theorem State.clearRx_eobs (s : State) : (s.clearRx).eobs = 0#2 := rfl
@[simp] theorem State.clearRx_tail (s : State) : (s.clearRx).tail = 0x0000#16 := rfl
@[simp] theorem State.clearRx_rxcrc (s : State) : (s.clearRx).rxcrc = 0x0000#16 := rfl
@[simp] theorem State.clearRx_fcnt (s : State) : (s.clearRx).fcnt = 0#32 := rfl
@[simp] theorem State.clearRx_done (s : State) : (s.clearRx).done = false := rfl
@[simp] theorem State.clearRx_verd (s : State) : (s.clearRx).verd = .none := rfl
@[simp] theorem State.clearRx_rdata (s : State) : (s.clearRx).rdata = s.rdata := rfl
@[simp] theorem State.clearRx_rcode (s : State) : (s.clearRx).rcode = s.rcode := rfl
@[simp] theorem State.clearRx_port (s : State) : (s.clearRx).port = s.port := rfl

/-! `fdPush` -/

@[simp] theorem fdPush_crc (f : Bool) (s : State) :
    (fdPush f s).crc = s.crc := rfl
@[simp] theorem fdPush_cne (f : Bool) (s : State) :
    (fdPush f s).cne = s.cne := rfl
@[simp] theorem fdPush_hv (f : Bool) (s : State) :
    (fdPush f s).hv = s.hv := rfl
@[simp] theorem fdPush_h (f : Bool) (s : State) :
    (fdPush f s).h = s.h := rfl
@[simp] theorem fdPush_pidx (f : Bool) (s : State) :
    (fdPush f s).pidx = s.pidx := rfl
@[simp] theorem fdPush_ev (f : Bool) (s : State) :
    (fdPush f s).ev = s.ev := rfl
@[simp] theorem fdPush_epos (f : Bool) (s : State) :
    (fdPush f s).epos = s.epos := rfl
@[simp] theorem fdPush_eobs (f : Bool) (s : State) :
    (fdPush f s).eobs = s.eobs := rfl
@[simp] theorem fdPush_tail (f : Bool) (s : State) :
    (fdPush f s).tail = (s.tail <<< 1) ||| (BitVec.ofBool f).setWidth 16 := rfl
@[simp] theorem fdPush_rxcrc (f : Bool) (s : State) :
    (fdPush f s).rxcrc = if 16#32 ≤ s.fcnt then crcStep s.rxcrc (s.tail.getLsbD 15) else s.rxcrc := rfl
@[simp] theorem fdPush_fcnt (f : Bool) (s : State) :
    (fdPush f s).fcnt = satinc s.fcnt := rfl
@[simp] theorem fdPush_done (f : Bool) (s : State) :
    (fdPush f s).done = s.done := rfl
@[simp] theorem fdPush_verd (f : Bool) (s : State) :
    (fdPush f s).verd = s.verd := rfl
@[simp] theorem fdPush_rdata (f : Bool) (s : State) :
    (fdPush f s).rdata = s.rdata := rfl
@[simp] theorem fdPush_rcode (f : Bool) (s : State) :
    (fdPush f s).rcode = s.rcode := rfl
@[simp] theorem fdPush_port (f : Bool) (s : State) :
    (fdPush f s).port = s.port := rfl

/-! `State.endRx` writes DONE and VERD only, once. -/

@[simp] theorem State.endRx_crc (s : State) : s.endRx.crc = s.crc := by
  unfold State.endRx; split <;> rfl
@[simp] theorem State.endRx_cne (s : State) : s.endRx.cne = s.cne := by
  unfold State.endRx; split <;> rfl
@[simp] theorem State.endRx_hv (s : State) : s.endRx.hv = s.hv := by
  unfold State.endRx; split <;> rfl
@[simp] theorem State.endRx_h (s : State) : s.endRx.h = s.h := by
  unfold State.endRx; split <;> rfl
@[simp] theorem State.endRx_pidx (s : State) : s.endRx.pidx = s.pidx := by
  unfold State.endRx; split <;> rfl
@[simp] theorem State.endRx_ev (s : State) : s.endRx.ev = s.ev := by
  unfold State.endRx; split <;> rfl
@[simp] theorem State.endRx_epos (s : State) : s.endRx.epos = s.epos := by
  unfold State.endRx; split <;> rfl
@[simp] theorem State.endRx_eobs (s : State) : s.endRx.eobs = s.eobs := by
  unfold State.endRx; split <;> rfl
@[simp] theorem State.endRx_tail (s : State) : s.endRx.tail = s.tail := by
  unfold State.endRx; split <;> rfl
@[simp] theorem State.endRx_rxcrc (s : State) : s.endRx.rxcrc = s.rxcrc := by
  unfold State.endRx; split <;> rfl
@[simp] theorem State.endRx_fcnt (s : State) : s.endRx.fcnt = s.fcnt := by
  unfold State.endRx; split <;> rfl
@[simp] theorem State.endRx_rdata (s : State) : s.endRx.rdata = s.rdata := by
  unfold State.endRx; split <;> rfl
@[simp] theorem State.endRx_rcode (s : State) : s.endRx.rcode = s.rcode := by
  unfold State.endRx; split <;> rfl
@[simp] theorem State.endRx_port (s : State) : s.endRx.port = s.port := by
  unfold State.endRx; split <;> rfl
@[simp] theorem State.endRx_done (s : State) : s.endRx.done = true := by
  unfold State.endRx
  cases h : s.done <;> simp [h]

theorem State.endRx_verd (s : State) : s.endRx.verd = if s.done = false then s.verdict else s.verd := by
  unfold State.endRx; split <;> rfl

end Sys2Proof.Machine
end

