-- ==== Sys2Proof/Laws/Ops.lean ====
section
/-! SUPPORT. One lemma per shared operation that says everything it can do. -/

namespace Sys2Proof.Machine

/-! ## Sequences -/

@[simp] theorem seqF_length (n : Nat) (d : Half) : (seqF n d).length = n := by
  induction n with
  | zero => rfl
  | succ n ih => simp [seqF, ih]

@[simp] theorem lowBits_length (n : Nat) (w : Word) : (lowBits n w).length = n := by
  induction n with
  | zero => rfl
  | succ n ih => simp [lowBits, ih]

theorem msbVal_append_singleton (s : BitSeq) (b : Bool) : msbVal (s ++ [b]) = 2 * msbVal s + b.toNat := by
  simp [msbVal]

theorem msbVal_lt (s : BitSeq) : msbVal s < 2 ^ s.length := by
  induction s using List.reverseRecOn with
  | nil => simp [msbVal]
  | append_singleton s b ih =>
    rw [msbVal_append_singleton, List.length_append, List.length_singleton, pow_succ]
    have : b.toNat ≤ 1 := by cases b <;> simp
    omega

/-! ## The saturating counter -/

/-- `satinc` is the increment of the value, held at 0xFFFFFFFF (00_scope.md R12). -/
theorem satinc_toNat (x : Word) : (satinc x).toNat = min (x.toNat + 1) 4294967295 := by
  unfold satinc Config.counterMax
  split
  · next h => subst h; rfl
  · next h =>
    have h' : x.toNat ≠ 4294967295 := fun hx => h (BitVec.eq_of_toNat_eq (by simpa using hx))
    have := x.isLt
    rw [BitVec.toNat_add]
    simp only [BitVec.toNat_ofNat]
    omega

/-! ## The LFSR -/

@[simp] theorem crcRun_nil (r : Half) : crcRun r [] = r := rfl

@[simp] theorem crcRun_cons (r : Half) (b : Bool) (s : BitSeq) : crcRun r (b :: s) = crcRun (crcStep r b) s := rfl

theorem crcRun_append (r : Half) (s t : BitSeq) : crcRun r (s ++ t) = crcRun (crcRun r s) t := by
  simp [crcRun]

/-! ## The disassembler -/

theorem fdRun_append (s t : BitSeq) (u : State) : fdRun (s ++ t) u = fdRun t (fdRun s u) := by
  induction s generalizing u with
  | nil => rfl
  | cons b s ih => simp [fdRun, ih]

/-- The disassembler's elements: what `fdPush` may write. -/
abbrev FdFrame (s t : State) : Prop :=
  t.crc = s.crc ∧ t.cne = s.cne ∧ t.hv = s.hv ∧ t.h = s.h ∧ t.pidx = s.pidx ∧ t.ev = s.ev ∧ t.epos = s.epos ∧
    t.eobs = s.eobs ∧ t.done = s.done ∧ t.verd = s.verd ∧ t.rdata = s.rdata ∧ t.rcode = s.rcode ∧ t.port = s.port

/-- `fdRun` writes TAIL, RXCRC and FCNT only (42_frame.md R95). -/
theorem fdRun_frame (f : BitSeq) (s : State) : FdFrame s (fdRun f s) := by
  induction f generalizing s with
  | nil => simp [fdRun, FdFrame]
  | cons b f ih => simpa [fdRun, FdFrame] using ih (fdPush b s)

/-! ## The decoder -/

/-- Everything `mdStep` can do (41_manchester.md R79): hold the first half of a pair, or complete the pair `{H, e}` and
then ignore it (decoding has stopped), decode it, or record it as the first invalid one. -/
theorem mdStep_cases (e : Bool) (s : State) :
    (s.hv = false ∧ mdStep e s = ({ s with h := e, hv := true }, none)) ∨
    (s.hv = true ∧ s.ev = true ∧
      mdStep e s = ({ s with hv := false, h := false, pidx := satinc s.pidx }, none)) ∨
    (s.hv = true ∧ s.ev = false ∧ e = !s.h ∧
      mdStep e s = ({ s with hv := false, h := false, pidx := satinc s.pidx }, some e)) ∨
    (s.hv = true ∧ s.ev = false ∧ e = s.h ∧
      mdStep e s = ({ s with hv := false, h := false, pidx := satinc s.pidx, ev := true, epos := s.pidx,
                             eobs := BitVec.ofBool e ++ BitVec.ofBool e }, none)) := by
  cases hhv : s.hv
  · left; simp [mdStep, hhv]
  · right
    cases hev : s.ev
    · right
      cases hh : s.h <;> cases e <;> simp [mdStep, hhv, hev, hh]
    · left; simp [mdStep, hhv, hev]

/-- The elements outside the decoder: what `mdStep` leaves alone. -/
abbrev MdFrame (s t : State) : Prop :=
  t.crc = s.crc ∧ t.cne = s.cne ∧ t.tail = s.tail ∧ t.rxcrc = s.rxcrc ∧ t.fcnt = s.fcnt ∧
    t.done = s.done ∧ t.verd = s.verd ∧ t.rdata = s.rdata ∧ t.rcode = s.rcode ∧ t.port = s.port

/-- `mdStep` writes the decoder's elements only. -/
theorem mdStep_frame (e : Bool) (s : State) : MdFrame s (mdStep e s).1 := by
  rcases mdStep_cases e s with ⟨_, h⟩ | ⟨_, _, h⟩ | ⟨_, _, _, h⟩ | ⟨_, _, _, h⟩ <;> simp [h, MdFrame]

/-- The elements outside the receive channel's two units: what the feeds leave alone. -/
abbrev FeedFrame (s t : State) : Prop :=
  t.crc = s.crc ∧ t.cne = s.cne ∧ t.done = s.done ∧ t.verd = s.verd ∧ t.rdata = s.rdata ∧ t.rcode = s.rcode ∧
    t.port = s.port

@[simp] theorem mdRun_nil (s : State) : mdRun [] s = (s, []) := rfl

/-- One bit of the MD.FEED loop (41_manchester.md R80). -/
theorem mdRun_cons (e : Bool) (es : BitSeq) (s : State) :
    mdRun (e :: es) s =
      match (mdStep e s).2 with
      | none => mdRun es (mdStep e s).1
      | some b => ((mdRun es (fdPush b (mdStep e s).1)).1, b :: (mdRun es (fdPush b (mdStep e s).1)).2) := by
  simp only [mdRun]
  rcases mdStep e s with ⟨s', _ | b⟩ <;> rfl

/-- `mdRun` writes the decoder's and the disassembler's elements only (41_manchester.md R80). -/
theorem mdRun_frame (es : BitSeq) (s : State) : FeedFrame s (mdRun es s).1 := by
  induction es generalizing s with
  | nil => simp [FeedFrame]
  | cons e es ih =>
    obtain ⟨h1, h2, -, -, -, h6, h7, h8, h9, h10⟩ := mdStep_frame e s
    rw [mdRun_cons]
    split
    · simpa [FeedFrame, h1, h2, h6, h7, h8, h9, h10] using ih (mdStep e s).1
    · next b _ => simpa [FeedFrame, h1, h2, h6, h7, h8, h9, h10] using ih (fdPush b (mdStep e s).1)

/-- The MD.FEED loop over two parts of a sequence. -/
theorem mdRun_append (es fs : BitSeq) (s : State) :
    mdRun (es ++ fs) s =
      ((mdRun fs (mdRun es s).1).1, (mdRun es s).2 ++ (mdRun fs (mdRun es s).1).2) := by
  induction es generalizing s with
  | nil => simp
  | cons e es ih =>
    rw [List.cons_append, mdRun_cons, mdRun_cons]
    split <;> simp [ih]

/-! ## The commands, as equations -/

@[simp] theorem exec_nop (s : State) : exec .nop s = .next (s.respond .ok 0#32) := rfl
@[simp] theorem exec_crcClr (s : State) : exec .crcClr s = .next (s.clearCrc.respond .ok 0#32) := rfl
@[simp] theorem exec_crcFeed (n : Nat) (d : Half) (s : State) :
    exec (.crcFeed n d) s =
      .next ((s.feedCrc (seqF n d)).respond .ok ((crcRun s.crc (seqF n d)).setWidth 32)) := rfl
@[simp] theorem exec_faTail_empty (s : State) (h : s.cne = false) :
    exec .faTail s = .next (s.rejectCommand .empty) := by simp [exec, execFaTail, h]
@[simp] theorem exec_faTail_ok (s : State) (h : s.cne = true) :
    exec .faTail s = .next (s.respond .ok (s.crc.setWidth 32)) := by simp [exec, execFaTail, h]
@[simp] theorem exec_menc (n : Nat) (d : Half) (s : State) :
    exec (.menc n d) s = .next (s.respond .ok (mencWord (seqF n d))) := rfl
@[simp] theorem exec_rxClr (s : State) : exec .rxClr s = .next (s.clearRx.respond .ok 0#32) := rfl
@[simp] theorem exec_mdFeed_closed (n : Nat) (d : Half) (s : State) (h : s.done = true) :
    exec (.mdFeed n d) s = .next (s.rejectCommand .closed) := by simp [exec, execMdFeed, h]
@[simp] theorem exec_mdFeed_open (n : Nat) (d : Half) (s : State) (h : s.done = false) :
    exec (.mdFeed n d) s =
      .next ((mdRun (seqF n d) s).1.respond .ok
        (mdData (mdRun (seqF n d) s).1.ev (mdRun (seqF n d) s).1.hv
          (BitVec.ofNat 4 (mdRun (seqF n d) s).2.length) (BitVec.ofNat 8 (msbVal (mdRun (seqF n d) s).2)))) := by
  simp [exec, execMdFeed, h]
@[simp] theorem exec_fdFeed_closed (n : Nat) (d : Half) (s : State) (h : s.done = true) :
    exec (.fdFeed n d) s = .next (s.rejectCommand .closed) := by simp [exec, execFdFeed, h]
@[simp] theorem exec_fdFeed_open (n : Nat) (d : Half) (s : State) (h : s.done = false) :
    exec (.fdFeed n d) s =
      .next ((fdRun (seqF n d) s).respond .ok (fdRun (seqF n d) s).fcnt) := by
  simp [exec, execFdFeed, h]
@[simp] theorem exec_rxEnd (s : State) : exec .rxEnd s = .next (s.endRx.respond .ok s.endRx.vw) := rfl
@[simp] theorem exec_rd (r : Reg) (s : State) : exec (.rd r) s = .next (s.respond .ok (s.readReg r)) := rfl
@[simp] theorem exec_srst (s : State) : exec .srst s = .next (s.clearCrc.clearRx.respond .ok 0#32) := rfl

/-- An illegal word, whatever the reason. -/
theorem acceptWord_illegal (w : Word) (s : State) (e : Illegal) (h : decode w = .error e) :
    acceptWord w s = .next (s.rejectCommand .illegal) := by
  simp [acceptWord, h, execIllegal]

/-- A legal word runs its command. -/
theorem acceptWord_command (w : Word) (s : State) (i : Instr) (h : decode w = .ok i) :
    acceptWord w s = exec i s := by
  simp [acceptWord, h]

end Sys2Proof.Machine
end

