-- ==== Sys2Proof/Laws/PerInstr.lean ====
section
/-! SUPPORT. Family WordShape: the word of every command has the four fields of 30_encoding.md R49, with OP the
command's opcode, RSV 0, and the count and data of its format. -/

namespace Sys2Proof.Laws.WordShape

/-- The fields of a command's word (30_encoding.md R49). -/
abbrev Statement (i : Instr) : Prop :=
  opField (encode i) = opcode i ∧ rsvField (encode i) = 0#3 ∧ nField (encode i) = countOf i ∧
    dField (encode i) = dataOf i

/-- A slice of a concatenation that starts above the low part is a slice of the high part. -/
theorem slice_high {v w k : Nat} (x : BitVec v) (y : BitVec w) (i : Nat) :
    (x ++ y).extractLsb' (w + i) k = x.extractLsb' i k := by
  ext j hj
  have h1 : ¬ (w + i + j < w) := by omega
  have h2 : w + i + j - w = i + j := by omega
  simp [BitVec.getLsbD_append, h1, h2]

/-- The low slice of a concatenation is its low part. -/
theorem slice_low {v w : Nat} (x : BitVec v) (y : BitVec w) : (x ++ y).extractLsb' 0 w = y := by
  ext j hj
  simp [BitVec.getLsbD_append, hj]

/-- The fields of a concatenation of the four fields. -/
theorem fields_of_append (op : BitVec 8) (n : BitVec 5) (d : Half) :
    opField (op ++ 0#3 ++ n ++ d) = op ∧ rsvField (op ++ 0#3 ++ n ++ d) = 0#3 ∧
      nField (op ++ 0#3 ++ n ++ d) = n ∧ dField (op ++ 0#3 ++ n ++ d) = d := by
  refine ⟨?_, ?_, ?_, ?_⟩
  · exact (slice_high _ _ 8).trans ((slice_high _ _ 3).trans ((slice_high _ _ 0).trans (by simp)))
  · exact (slice_high _ _ 5).trans ((slice_high _ _ 0).trans (slice_low _ _))
  · exact (slice_high _ _ 0).trans (slice_low _ _)
  · exact slice_low _ _

theorem nop : Statement .nop := fields_of_append _ _ _
theorem crcClr : Statement .crcClr := fields_of_append _ _ _
theorem crcFeed (n : Nat) (d : Half) : Statement (.crcFeed n d) := fields_of_append _ _ _
theorem faTail : Statement .faTail := fields_of_append _ _ _
theorem menc (n : Nat) (d : Half) : Statement (.menc n d) := fields_of_append _ _ _
theorem rxClr : Statement .rxClr := fields_of_append _ _ _
theorem mdFeed (n : Nat) (d : Half) : Statement (.mdFeed n d) := fields_of_append _ _ _
theorem fdFeed (n : Nat) (d : Half) : Statement (.fdFeed n d) := fields_of_append _ _ _
theorem rxEnd : Statement .rxEnd := fields_of_append _ _ _
theorem rd (r : Reg) : Statement (.rd r) := fields_of_append _ _ _
theorem srst : Statement .srst := fields_of_append _ _ _

end Sys2Proof.Laws.WordShape
end

