-- ==== Sys2Proof/Tests/Slice0.lean ====
section
/-! SUPPORT. Tests on single words and single commands, with their expected values from the spec's files (mostly
95_test_vectors.md; the vector is named at each test), and a witness for the hypotheses of each obligation. -/

open Sys2Proof Sys2Proof.Machine Sys2Proof.Reference Sys2Proof.Harness Sys2Proof.Claims

namespace Sys2Proof.Tests

/-! ## Helpers -/

/-- The next state of an outcome. -/
def nextOf : Result → Option State
  | .next t => some t
  | .fault _ => none
  | .refused _ => none

/-- The response of an outcome. -/
def answerOf (r : Result) : Option Response := (nextOf r).map State.response

/-- A state whose CRC engine was fed. -/
def fedState : State := { State.reset with crc := 0x2DA8#16, cne := true }

/-- A state whose receive sequence was ended, on nothing received (V-FR-5). -/
def endedState : State := { State.reset with done := true, verd := .tooShort }

/-- A state with a half pair and a recorded invalid pair (V-FR-10). -/
def brokenState : State := { State.reset with hv := true, h := true, ev := true, pidx := 1#32 }

/-- A state that holds a whole frame, tail and CRC as given. -/
def frameState (tail rxcrc : Half) (fcnt : Word) : State :=
  { State.reset with tail := tail, rxcrc := rxcrc, fcnt := fcnt }

/-- A state with one command on the port. -/
def portState (w : Word) : State := { State.reset with port := [.command w] }

/-! ## WellFormed refuses ill-formed terms (30_encoding.md R51) -/

theorem test_illFormed_count_zero : ¬ (Instr.crcFeed 0 0x0000#16).WellFormed := by decide
theorem test_illFormed_count_seventeen : ¬ (Instr.menc 17 0x0000#16).WellFormed := by decide
theorem test_illFormed_unused_bit : ¬ (Instr.mdFeed 3 0x0008#16).WellFormed := by decide
theorem test_illFormed_fdFeed : ¬ (Instr.fdFeed 15 0x8000#16).WellFormed ∧ ¬ (Instr.fdFeed 0 0x0001#16).WellFormed := by
  decide
theorem test_illFormed_each_feed :
    ¬ (Instr.crcFeed 1 0x0002#16).WellFormed ∧ ¬ (Instr.menc 0 0x0000#16).WellFormed ∧
      ¬ (Instr.mdFeed 17 0x0000#16).WellFormed := by decide
theorem test_wellFormed_bounds :
    (Instr.crcFeed 1 0x0001#16).WellFormed ∧ (Instr.crcFeed 16 0xFFFF#16).WellFormed ∧
      (Instr.fdFeed 15 0x7FFF#16).WellFormed := by decide

/-! ## Decode: every command's word written out as OP, RSV, N, D (30_encoding.md R49 to R53) -/

theorem test_decode_nop : decode 0b00000000_000_00000_0000000000000000#32 = .ok .nop := by decide
theorem test_decode_crcClr : decode 0b00000001_000_00000_0000000000000000#32 = .ok .crcClr := by decide
theorem test_decode_crcFeed :
    decode 0b00000010_000_10000_1011001100110101#32 = .ok (.crcFeed 16 0xB335#16) := by decide
theorem test_decode_faTail : decode 0b00000011_000_00000_0000000000000000#32 = .ok .faTail := by decide
theorem test_decode_menc : decode 0b00000100_000_00100_0000000000001011#32 = .ok (.menc 4 0xB#16) := by decide
theorem test_decode_rxClr : decode 0b00001000_000_00000_0000000000000000#32 = .ok .rxClr := by decide
theorem test_decode_mdFeed : decode 0b00001001_000_00011_0000000000000011#32 = .ok (.mdFeed 3 0x3#16) := by decide
theorem test_decode_fdFeed : decode 0b00001010_000_00001_0000000000000001#32 = .ok (.fdFeed 1 0x1#16) := by decide
theorem test_decode_rxEnd : decode 0b00001011_000_00000_0000000000000000#32 = .ok .rxEnd := by decide
theorem test_decode_rd :
    decode 0b00010000_000_00000_0000000000000110#32 = .ok (.rd .rxtail) ∧
      decode 0b00010000_000_00000_0000000000001000#32 = .ok (.rd .rxvw) := by decide
theorem test_decode_srst : decode 0b00011111_000_00000_0000000000000000#32 = .ok .srst := by decide

/-- The register indices of 10_state.md R30. -/
theorem test_decode_rd_indices :
    ([0x10000000#32, 0x10000001#32, 0x10000002#32, 0x10000003#32, 0x10000004#32, 0x10000005#32, 0x10000006#32,
      0x10000007#32, 0x10000008#32].map fun w => (decode w).toOption) =
    [some (.rd .cfg), some (.rd .crcstat), some (.rd .rxstat), some (.rd .rxpidx), some (.rd .rxepos),
      some (.rd .rxfcnt), some (.rd .rxtail), some (.rd .rxcrc), some (.rd .rxvw)] := by decide

/-- V-ENC-2 to V-ENC-4: bits that the format does not use. -/
theorem test_illegal_unused_bits :
    decode 0x00000001#32 = .error .unusedDataBits ∧ decode 0x00200000#32 = .error .reservedBits ∧
      decode 0x01200000#32 = .error .reservedBits := by decide
/-- V-ENC-5 to V-ENC-7: format F's operands. -/
theorem test_illegal_feeds :
    decode 0x02000000#32 = .error .countOutOfRange ∧ decode 0x02110000#32 = .error .countOutOfRange ∧
      decode 0x02030008#32 = .error .unusedDataBits := by decide
/-- V-ENC-8 and V-ENC-14: reserved opcodes. -/
theorem test_illegal_opcodes :
    decode 0x05000000#32 = .error .reservedOpcode ∧ decode 0xFFFFFFFF#32 = .error .reservedOpcode := by decide
/-- V-ENC-10 to V-ENC-12: format R's operand. -/
theorem test_illegal_registers :
    decode 0x10000009#32 = .error .reservedRegister ∧ decode 0x1000001F#32 = .error .reservedRegister ∧
      decode 0x10010000#32 = .error .countOutOfRange ∧ decode 0x10000020#32 = .error .unusedDataBits := by decide
/-- V-ENC-13. -/
theorem test_illegal_rxEnd : decode 0x0B000001#32 = .error .unusedDataBits := by decide
/-- The legality check of R54 on the words of V-ENC-1 to V-ENC-15. -/
theorem test_legal :
    [0x00000000#32, 0x10000008#32, 0x0210FFFF#32].all legal = true ∧
      [0x00000001#32, 0x00200000#32, 0x01200000#32, 0x02000000#32, 0x02110000#32, 0x02030008#32, 0x05000000#32,
        0x10000009#32, 0x1000001F#32, 0x10010000#32, 0x0B000001#32, 0xFFFFFFFF#32].any legal = false := by decide
/-- Words of V-SRC-1, V-MD-1, V-FR-8 and 30_encoding.md R53. -/
theorem test_encode :
    encode (.crcFeed 16 0xB335#16) = 0x0210B335#32 ∧ encode (.menc 16 0x2DA8#16) = 0x04102DA8#32 ∧
      encode (.mdFeed 4 0x6#16) = 0x09040006#32 ∧ encode (.fdFeed 16 0x1020#16) = 0x0A101020#32 ∧
      encode (.rd .rxstat) = 0x10000002#32 ∧ encode .srst = 0x1F000000#32 := by decide
/-- The opcode table's bit numbering, and a word that is refused. -/
theorem test_decodeTableWord :
    decodeTableWord 32 0x0A010001 = some (.fdFeed 1 0x1#16) ∧ decodeTableWord 32 0x05000000 = none := by decide

/-! ## Each command, on one state -/

/-- V-CTL-1: NOP answers (OK, 0). -/
theorem test_nop : answerOf (exec .nop { fedState with rcode := .illegal }) = some ⟨.ok, 0#32⟩ := by decide
/-- V-CRC-13. -/
theorem test_crcClr : (nextOf (exec .crcClr fedState)).map (fun t => (t.crc, t.cne)) = some (0x0000#16, false) := by
  decide
/-- V-SRC-1. -/
theorem test_crcFeed : answerOf (exec (.crcFeed 16 0xB335#16) State.reset) = some ⟨.ok, 0x2DA8#32⟩ := by decide +kernel
/-- V-CRC-6, second chunk: the register carries over. -/
theorem test_crcFeed_chunk :
    answerOf (exec (.crcFeed 12 0x335#16) { State.reset with crc := 0xB16B#16, cne := true }) =
      some ⟨.ok, 0x2DA8#32⟩ := by decide +kernel
/-- V-SRC-1. -/
theorem test_faTail : answerOf (exec .faTail fedState) = some ⟨.ok, 0x2DA8#32⟩ := by decide
/-- V-CRC-10. -/
theorem test_faTail_empty : answerOf (exec .faTail State.reset) = some ⟨.empty, 0#32⟩ := by decide
/-- V-MENC-5. -/
theorem test_menc : answerOf (exec (.menc 4 0xB#16) State.reset) = some ⟨.ok, 0x65#32⟩ := by decide
/-- V-MENC-7. -/
theorem test_menc_full : answerOf (exec (.menc 16 0x2DA8#16) endedState) = some ⟨.ok, 0xA659666A#32⟩ := by decide
/-- 42_frame.md R96. -/
theorem test_rxClr : nextOf (exec .rxClr { brokenState with done := true, verd := .oddLength }) = some State.reset := by
  decide
/-- V-MD-8, second command: an invalid pair that straddles two commands. -/
theorem test_mdFeed_invalid :
    (nextOf (exec (.mdFeed 16 0x1555#16) { State.reset with hv := true })).map
      (fun t => (t.rdata, t.hv, t.h, t.pidx)) = some (0xC0000000#32, true, true, 8#32) := by decide
/-- V-MD-1. -/
theorem test_mdFeed :
    (nextOf (exec (.mdFeed 4 0x6#16) State.reset)).map (fun t => (t.rdata, t.fcnt, t.tail)) =
      some (0x02000002#32, 2#32, 0b10#16) := by decide
/-- V-FR-8, second command. -/
theorem test_fdFeed :
    (nextOf (exec (.fdFeed 16 0x1020#16) (frameState 0x0001#16 0x0000#16 1#32))).map
      (fun t => (t.rdata, t.tail, t.rxcrc)) = some (17#32, 0x1020#16, 0x1021#16) := by decide
/-- V-MD-5. -/
theorem test_fdFeed_closed : answerOf (exec (.fdFeed 1 0x1#16) endedState) = some ⟨.closed, 0#32⟩ := by decide
/-- V-FR-10: ODD_LENGTH wins. -/
theorem test_rxEnd : answerOf (exec .rxEnd brokenState) = some ⟨.ok, 0x14#32⟩ := by decide
/-- V-FR-6: sixteen bits are TOO_SHORT. -/
theorem test_rxEnd_short : answerOf (exec .rxEnd (frameState 0x0000#16 0x0000#16 16#32)) = some ⟨.ok, 0x13#32⟩ := by
  decide
/-- V-CTL-1. -/
theorem test_rd_crcstat : answerOf (exec (.rd .crcstat) fedState) = some ⟨.ok, 0x00012DA8#32⟩ := by decide
/-- V-FR-10: RD 2. -/
theorem test_rd_rxstat :
    answerOf (exec (.rd .rxstat) { brokenState with done := true, verd := .oddLength }) = some ⟨.ok, 0x127#32⟩ := by
  decide
/-- V-CTL-1: SRST gives the reset state. -/
theorem test_srst : nextOf (exec .srst fedState) = some State.reset := by decide
/-- V-CTL-2: ILLEGAL comes before CLOSED. -/
theorem test_illegal_before_closed : answerOf (acceptWord 0x09000002#32 endedState) = some ⟨.illegal, 0#32⟩ := by decide
/-- The word placed by `withFetchWord` is the next step's command, whatever stood on the port. -/
theorem test_withFetchWord :
    nextOf (step ((portState 0x1F000000#32).withFetchWord 32 0x02010001)) =
      some { State.reset with crc := 0x1021#16, cne := true, rdata := 0x1021#32,
                              port := [.command 0x1F000000#32] } := by decide

/-! ## The host's side and the reference functions -/

/-- V-FI-1, V-FI-2, V-FI-7 and V-FI-9, on a frame of the source's data. -/
theorem test_injector :
    flipBit (bits16 0xB335#16) 10 = bits16 0xB315#16 ∧ flipBit (bits16 0x2DA8#16) 16 = bits16 0x2DA8#16 ∧
      flipBurst (bits16 0x2DA8#16) 12 8 = bits16 0x2DA7#16 ∧
      flipBurst (bits16 0x2DA8#16) 16 8 = bits16 0x2DA8#16 := by decide
/-- 49_host.md R117: partial writes are retried, a failing write stops after what was taken, a failing read gives nothing. -/
theorem test_transport :
    sendBytes [.takes 1, .takes 0, .takes 5] [0x30#8, 0x31#8] = ⟨[0x30#8, 0x31#8], .complete⟩ ∧
      sendBytes [.takes 1, .fails] [0x30#8, 0x31#8] = ⟨[0x30#8], .writeError⟩ ∧
      receiveUntilClose [.gives [0x30#8], .gives [0x31#8]] = some [0x30#8, 0x31#8] ∧
      receiveUntilClose [.gives [0x30#8], .fails] = none := by decide
/-- V-SRC-1: the encoding of the CRC field "0010110110101000". -/
theorem test_encodeBits : encodeBits (bits16 0x2DA8#16) = bits16 0xA659#16 ++ bits16 0x666A#16 := by decide
/-- 41_manchester.md R75: the pair index of an invalid pair, and the odd length first. -/
theorem test_decodeBits :
    decodeBits [false, true, true, false, true, true] = .error (.invalidPair 2 (true, true)) ∧
      decodeBits [false, false, true] = .error .oddLength := by decide
/-- V-FR-7: the shortest frame. -/
theorem test_buildFrame : buildFrame [true] = true :: bits16 0x1021#16 := by decide
/-- 30_encoding.md R59, R60: a quoted string, a comment, a register name, and a line that is none. -/
theorem test_assembleLine :
    Asm.assembleLine "menc \"1011\" ; comment".toList = some [.menc 4 0xB#16] ∧
      Asm.assembleLine "FD.BIT 1".toList = some [.fdFeed 1 0x1#16] ∧
      Asm.assembleLine "CRC.FEED 3, 8".toList = none := by decide

/-! ## Witnesses: states and operands that meet the hypotheses of the obligations -/

/-- A cut of a sequence into chunks at both bounds of their length. -/
def someCut : List BitSeq := [[true], bits16 0xB335#16]

theorem witness_DecodeEncodeRoundTrip :
    (Instr.crcFeed 16 0xFFFF#16).WellFormed ∧ (Instr.crcFeed 1 0x0001#16).WellFormed ∧ (Instr.rd .rxvw).WellFormed := by
  decide
theorem witness_LegalWordsDecode : legal 0x10000008#32 = true ∧ legal 0x10000009#32 = false := by decide
theorem witness_LegalWordCounts : decode 0x0210FFFF#32 = .ok (.crcFeed 16 0xFFFF#16) := by decide
theorem witness_ReservedWordsExactlyIllegal : (∃ e, decode 0x10000009#32 = .error e) ∧ Reserved 0x10000009#32 := by
  refine ⟨⟨.reservedRegister, by decide⟩, ?_⟩
  unfold Reserved
  exact .inr (.inr (.inr (.inr (.inr (.inr (.inr (.inr (.inr (.inr (by decide))))))))))
theorem witness_ChunksCarryTheSequence :
    bits16 0xB335#16 ∈ (chunks (bits16 0xB335#16 ++ [true])).dropLast ∧
      [true] ∈ chunks (bits16 0xB335#16 ++ [true]) := by decide
theorem witness_StepRunsDecodedCommand :
    (portState 0x01000000#32).port = .command 0x01000000#32 :: [] ∧ decode 0x01000000#32 = .ok .crcClr := by decide
theorem witness_IllegalWordOnlyResponds :
    (portState 0x05000000#32).port = .command 0x05000000#32 :: [] ∧ legal 0x05000000#32 = false := by decide
theorem witness_ResetInputRestoresResetState :
    ({ fedState with port := [.reset (some 0x03000000#32)] } : State).port = .reset (some 0x03000000#32) :: [] ∧
      fedState.port = [] := by decide
theorem witness_CommandsCompleteWithOneResponse :
    decode 0x09105555#32 = .ok (.mdFeed 16 0x5555#16) ∧ FeedOperands 16 0x5555#16 := by decide

/-- Hypotheses of `OnlyWord`: another word of the same opcode. -/
theorem witness_NopCompletes : opField 0x00000001#32 = opField 0x00000000#32 ∧ 0x00000001#32 ≠ 0x00000000#32 := by
  decide
theorem witness_CrcClrCompletes : opField 0x01200000#32 = opField 0x01000000#32 ∧ 0x01200000#32 ≠ 0x01000000#32 := by
  decide
theorem witness_RxClrCompletes : opField 0x08010000#32 = opField 0x08000000#32 ∧ 0x08010000#32 ≠ 0x08000000#32 := by
  decide
/-- Hypotheses of `FeedWord`, each clause: operands at both bounds, then RSV, N = 0, N = 17, D[15:N]. -/
theorem witness_CrcFeedCompletes :
    FeedOperands 1 0x0001#16 ∧ FeedOperands 16 0xFFFF#16 ∧
      (opField 0x02210000#32 = opField 0x02000000#32 ∧ rsvField 0x02210000#32 ≠ 0#3) ∧
      (opField 0x02000000#32 = opField 0x02000000#32 ∧ nField 0x02000000#32 = 0#5) ∧
      (opField 0x02110000#32 = opField 0x02000000#32 ∧ 16 < (nField 0x02110000#32).toNat) ∧
      (opField 0x02030008#32 = opField 0x02000000#32 ∧
        dField 0x02030008#32 >>> (nField 0x02030008#32).toNat ≠ 0#16) := by decide
theorem witness_FaTailCompletes :
    fedState.cne = true ∧ State.reset.cne = false ∧
      opField 0x03000001#32 = opField 0x03000000#32 ∧ 0x03000001#32 ≠ 0x03000000#32 := by decide
theorem witness_MencCompletes :
    FeedOperands 1 0x0000#16 ∧ FeedOperands 16 0xFFFF#16 ∧
      (opField 0x04210000#32 = opField 0x04000000#32 ∧ rsvField 0x04210000#32 ≠ 0#3) ∧
      (opField 0x04000000#32 = opField 0x04000000#32 ∧ nField 0x04000000#32 = 0#5) ∧
      (opField 0x04110000#32 = opField 0x04000000#32 ∧ 16 < (nField 0x04110000#32).toNat) ∧
      (opField 0x04010002#32 = opField 0x04000000#32 ∧
        dField 0x04010002#32 >>> (nField 0x04010002#32).toNat ≠ 0#16) := by decide
theorem witness_MdFeedCompletes :
    FeedOperands 1 0x0001#16 ∧ FeedOperands 16 0x5555#16 ∧ endedState.done = true ∧ brokenState.done = false ∧
      (opField 0x09210000#32 = opField 0x09000000#32 ∧ rsvField 0x09210000#32 ≠ 0#3) ∧
      (opField 0x09000002#32 = opField 0x09000000#32 ∧ nField 0x09000002#32 = 0#5) ∧
      (opField 0x09110000#32 = opField 0x09000000#32 ∧ 16 < (nField 0x09110000#32).toNat) ∧
      (opField 0x090F8000#32 = opField 0x09000000#32 ∧
        dField 0x090F8000#32 >>> (nField 0x090F8000#32).toNat ≠ 0#16) := by decide
theorem witness_FdFeedCompletes :
    FeedOperands 1 0x0001#16 ∧ FeedOperands 16 0xB335#16 ∧ endedState.done = true ∧ State.reset.done = false ∧
      (opField 0x0A210000#32 = opField 0x0A000000#32 ∧ rsvField 0x0A210000#32 ≠ 0#3) ∧
      (opField 0x0A000002#32 = opField 0x0A000000#32 ∧ nField 0x0A000002#32 = 0#5) ∧
      (opField 0x0A110000#32 = opField 0x0A000000#32 ∧ 16 < (nField 0x0A110000#32).toNat) ∧
      (opField 0x0A0F8000#32 = opField 0x0A000000#32 ∧
        dField 0x0A0F8000#32 >>> (nField 0x0A0F8000#32).toNat ≠ 0#16) := by decide
/-- A state for each verdict that RX.END can store, at the bound of the length test, and one already ended. -/
theorem witness_RxEndCompletes :
    brokenState.verdict = .oddLength ∧ { brokenState with hv := false, h := false }.verdict = .invalidPair ∧
      (frameState 0x0000#16 0x0000#16 16#32).verdict = .tooShort ∧
      (frameState 0x1021#16 0x1021#16 17#32).verdict = .matched ∧
      (frameState 0x1020#16 0x1021#16 17#32).verdict = .mismatch ∧
      brokenState.done = false ∧ (frameState 0x0000#16 0x0000#16 16#32).done = false ∧ endedState.done = true ∧
      opField 0x0B000001#32 = opField 0x0B000000#32 ∧ 0x0B000001#32 ≠ 0x0B000000#32 := by decide
theorem witness_RdCompletes : opField 0x10000009#32 = 0x10#8 ∧ ∀ r : Reg, 0x10000009#32 ≠ encode (.rd r) := by
  refine ⟨by decide, fun r => ?_⟩
  cases r <;> decide
theorem witness_SrstCompletes :
    (∃ t, exec .crcClr fedState = .next t) ∧
      opField 0x1F000001#32 = opField 0x1F000000#32 ∧ 0x1F000001#32 ≠ 0x1F000000#32 :=
  ⟨⟨_, rfl⟩, by decide⟩

theorem witness_ElementsWrittenOnlyByTheirCommands :
    (∃ t, exec (.mdFeed 4 0x6#16) fedState = .next t) ∧ Instr.mnemonic (.mdFeed 4 0x6#16) ∉ Element.crc.writers :=
  ⟨⟨_, rfl⟩, by decide⟩
theorem witness_ResponseCodesPerCommand :
    (∃ t, exec .faTail State.reset = .next t) ∧ legal 0x02000000#32 = false ∧
      ∃ t, acceptWord 0x02000000#32 fedState = .next t :=
  ⟨⟨_, rfl⟩, by decide, ⟨_, rfl⟩⟩
/-- A word for each response code. -/
theorem witness_RejectedCommandsLeaveState :
    answerOf (acceptWord 0x05000000#32 fedState) = some ⟨.illegal, 0#32⟩ ∧
      answerOf (acceptWord 0x03000000#32 State.reset) = some ⟨.empty, 0#32⟩ ∧
      answerOf (acceptWord 0x09020002#32 endedState) = some ⟨.closed, 0#32⟩ ∧
      answerOf (acceptWord 0x00000000#32 endedState) = some ⟨.ok, 0#32⟩ := by decide
/-- Both clauses: an ended sequence and a recorded pair, under a command that does not clear. -/
theorem witness_RecordsPersistUntilCleared :
    let s : State := { endedState with ev := true, port := [.command 0x0B000000#32] }
    s.port = .command 0x0B000000#32 :: [] ∧ 0x0B000000#32 ≠ encode .rxClr ∧ 0x0B000000#32 ≠ encode .srst ∧
      s.done = true ∧ s.ev = true ∧ ∃ t, step s = .next t :=
  ⟨rfl, by decide, by decide, rfl, rfl, ⟨_, rfl⟩⟩
/-- Both counters saturated, under a feed that counts. -/
theorem witness_CountersNeverWrap :
    let s : State := { State.reset with pidx := 0xFFFFFFFF#32, fcnt := 0xFFFFFFFF#32 }
    (∃ t, exec (.mdFeed 2 0x1#16) s = .next t) ∧ (Instr.mdFeed 2 0x1#16).clearsRx = false ∧ s.pidx = 0xFFFFFFFF#32 ∧
      s.fcnt = 0xFFFFFFFF#32 :=
  ⟨⟨_, rfl⟩, rfl, rfl, rfl⟩
theorem witness_IdempotentCommands :
    isIdempotent .rxEnd = true ∧ (∃ t, exec .rxEnd brokenState = .next t) ∧
      (∃ t, exec (.menc 1 0x1#16) fedState = .next t) ∧ endedState.done = true ∧
      ∃ t, exec .rxEnd endedState = .next t :=
  ⟨rfl, ⟨_, rfl⟩, ⟨_, rfl⟩, rfl, ⟨_, rfl⟩⟩
theorem witness_ResponseRegistersNeverRead : endedState.port = [] := by decide
theorem witness_TransmitReceiveDisjoint :
    isReceive (.mdFeed 4 0x6#16) = true ∧ (∃ t, exec (.mdFeed 4 0x6#16) fedState = .next t) ∧
      isTransmit .faTail = true ∧ fedState.crc = { fedState with done := true }.crc ∧
      fedState.cne = { fedState with done := true }.cne ∧ (∃ t, exec .faTail fedState = .next t) ∧
      ∃ v, exec .faTail { fedState with done := true } = .next v :=
  ⟨rfl, ⟨_, rfl⟩, rfl, rfl, rfl, ⟨_, rfl⟩, ⟨_, rfl⟩⟩
theorem witness_RdReachesEveryElement :
    ∀ r : Reg, brokenState.readReg r = (brokenState.answered .illegal 0x12#32).readReg r := by
  intro r
  cases r <;> rfl

theorem brokenState_inv : brokenState.Inv := by
  constructor <;> decide
/-- Both clauses: a state with a recorded pair and a half pair and a feed on the port, and a run from reset. -/
theorem witness_StepKeepsInvariant :
    ({ brokenState with port := [.command 0x09010001#32] } : State).Inv ∧
      (∃ t, step { brokenState with port := [.command 0x09010001#32] } = .next t) ∧
      ∃ t, Host.Core.run Sys2Proof.core 1 { State.reset with port := [.command 0x09010001#32] } = .next t :=
  ⟨by constructor <;> decide, ⟨_, rfl⟩, ⟨_, rfl⟩⟩
/-- A state with a stored verdict, and a feed on the port. -/
theorem witness_StepKeepsStoredVerdict :
    endedState.done = true ∧ ({ endedState with port := [.command 0x09010001#32] } : State).VerdictStands ∧
      ∃ t, step { endedState with port := [.command 0x09010001#32] } = .next t :=
  ⟨rfl, by decide, ⟨_, rfl⟩⟩

theorem witness_CrcLinear :
    (bits16 0xB335#16).length = (bits16 0x2DA8#16).length ∧ 1 ≤ [true].length ∧
      (true :: bits16 0x1021#16).length = (buildFrame [true]).length := by decide
theorem witness_CrcResidue : 17 ≤ (true :: bits16 0x1021#16).length := by decide
theorem witness_CrcFeedsComputeCrc16 :
    (∀ i ∈ [Instr.crcFeed 4 0xB#16, .mdFeed 1 0x1#16, .nop], i.WellFormed ∧ i ≠ .crcClr ∧ i ≠ .srst) ∧
      FeedOperands 12 0x335#16 := by
  refine ⟨?_, by decide⟩
  simp [Instr.WellFormed, FeedOperands]
/-- 41_manchester.md R76, each clause: an odd length, an even one with an invalid pair, one that decodes. -/
theorem witness_DecodeInvertsEncode :
    [true].length % 2 = 1 ∧ [false, true, true, true].length % 2 = 0 ∧
      decodeBits [false, true, true, true] = .error (.invalidPair 1 (true, true)) ∧
      decodeBits [false, true] = .ok [true] := by decide
theorem witness_MencChunksEncode :
    IsCut someCut ∧ ∃ t, acceptWord (encode (Asm.feedSeq .menc [true])) fedState = .next t :=
  ⟨by decide, ⟨_, rfl⟩⟩
theorem witness_DecoderCountsBits : IsCut someCut ∧ someCut.flatten.length % 2 = 1 := by decide
theorem witness_MdFeedChunkingIndependent :
    IsCut [[false, true], [true]] ∧ IsCut [[false], [true, true]] ∧
      [[false, true], [true]].flatten = [[false], [true, true]].flatten := by decide
/-- 41_manchester.md R84, each outcome of decode: a sequence that decodes, an invalid pair, an odd length. -/
theorem witness_DecoderComputesDecode :
    IsCut [[false, true]] ∧ decodeBits [false, true] = .ok [true] ∧ IsCut [[true], [true]] ∧
      decodeBits [true, true] = .error (.invalidPair 0 (true, true)) ∧ IsCut [[true]] ∧
      decodeBits [true] = .error .oddLength := by decide
theorem witness_NoBitFromOrAfterInvalidPair :
    FeedOperands 2 0x2#16 ∧ brokenState.ev = true ∧ (∃ t, exec (.mdFeed 2 0x2#16) brokenState = .next t) ∧
      brokenState.hv = true ∧ true = brokenState.h :=
  ⟨by decide, rfl, ⟨_, rfl⟩, rfl, rfl⟩
theorem witness_DisassemblerSplitsTheFrame :
    IsCut [bits16 0xB335#16] ∧ 16 ≤ [bits16 0xB335#16].flatten.length ∧ IsCut [[true]] ∧ [[true]].flatten.length < 16 := by
  decide
/-- 42_frame.md R100, each result of verify_frame. -/
theorem witness_DisassemblerComputesVerify :
    IsCut someCut ∧ verifyFrame (true :: bits16 0x1021#16) = .matched 0x1021#16 0x1021#16 ∧
      verifyFrame (true :: bits16 0x1020#16) = .mismatch 0x1020#16 0x1021#16 ∧
      verifyFrame (bits16 0x0000#16) = .tooShort := by decide
theorem witness_AssemblerBuildsTheFrame :
    IsCut someCut ∧ someCut ≠ [] ∧ IsCut (chunks (buildFrame [true])) ∧
      (chunks (buildFrame [true])).flatten = id (buildFrame [true]) := by decide
theorem witness_ReceiverReports :
    ({ State.reset with done := true, verd := .matched } : State).verd = .matched ∧
      endedState.verd ∈ [Verdict.mismatch, .tooShort, .oddLength, .invalidPair] := by decide
/-- 42_frame.md R102, both clauses: an invalid pair, and a frame that matches. -/
theorem witness_ReceivePathComputesDecodeAndVerify :
    IsCut [[true, true]] ∧ decodeAndVerify [true, true] = .invalidPair 0 (true, true) ∧
      IsCut (chunks (encodeBits (buildFrame [true]))) ∧
      decodeAndVerify (encodeBits (buildFrame [true])) = .matched 0x1021#16 0x1021#16 := by decide
theorem witness_RoundTripAndSingleFlips :
    [true] ≠ [] ∧ 0 < (buildFrame [true]).length ∧ 16 < (buildFrame [true]).length := by decide
theorem witness_MixedFeedsAreDefined :
    State.reset.done = false ∧ ∀ i ∈ [Instr.mdFeed 2 0x1#16, .fdFeed 16 0xB335#16, .mdFeed 1 0x1#16], isFeed i := by
  refine ⟨rfl, ?_⟩
  simp [isFeed, FeedOperands]
/-- 49_host.md R122, both sides of the count's bound, and a draw. -/
theorem witness_InjectorTogglesExactly :
    flipK [true, false] 3 [0, 1] = .error .invalidCount ∧ ValidDraw 2 2 [1, 0] ∧
      flipK [true, false] 2 [1, 0] = .ok [false, true] := by decide
/-- Every clause: a byte that is no bit; writes that fail, that retry and that have just room for the bytes; reads that
arrive in two parts and that fail. -/
theorem witness_WirePayloadParses :
    (∃ b ∈ [0x30#8, 0x0A#8], b ≠ 0x30#8 ∧ b ≠ 0x31#8) ∧
      (sendBytes [.takes 1, .fails] [0x30#8, 0x31#8]).status = .writeError ∧
      (sendBytes [.takes 1] [0x30#8, 0x31#8]).status = .retrying ∧
      .fails ∉ [WriteAttempt.takes 1, .takes 1] ∧
      [0x30#8, 0x31#8].length ≤ ([WriteAttempt.takes 1, .takes 1].map WriteAttempt.room).sum ∧
      Arrives [.gives [0x30#8], .gives [0x31#8]] [0x30#8, 0x31#8] ∧ .fails ∈ [ReadAttempt.gives [0x30#8], .fails] := by
  decide
theorem witness_SenderRejectsBadInput :
    (∃ ch ∈ ['1', '2'], ch ≠ '0' ∧ ch ≠ '1') ∧ ['1'] ≠ [] ∧ (∀ ch ∈ ['1'], ch = '0' ∨ ch = '1') ∧
      (0 < 1 ∨ ['1'].length + 16 < 0) ∧ (18 < 1 ∨ ['1'].length + 16 < 18) ∧
      (send ⟨.structural, 0, 0, 1, 0, 0, 0, true, true, ⟨0, 1, 2, 0, 0⟩⟩ .noError [] fedState).2 = .error .emptyData ∧
      (transmit ⟨.structural, 0, 0, 1, 0, 0, 0, true, true, ⟨0, 1, 2, 0, 0⟩⟩ .noError [] [] fedState).2.result =
        some (.error .emptyData) :=
  ⟨⟨'2', by simp⟩, by simp, by simp, by decide, by decide, rfl, rfl⟩
/-- Any data, host parameters at the bounds of a frame of 17 bits, and reads of what a send has written. -/
theorem witness_TransmissionEndToEnd :
    dataBits ['1'] = .ok [true] ∧
      Config.HostParams.Admissible ⟨.structural, 16, 0, 16, 0, 0, 0, true, false, ⟨0, 1, 2, 0, 0⟩⟩ (1 + 16) ∧
      Arrives [.gives [0x30#8, 0x31#8]] (sendBytes [.takes 1, .takes 1] [0x30#8, 0x31#8]).stream ∧
      (sendBytes [.takes 1, .takes 1] [0x30#8, 0x31#8]).result = some (.ok 2) ∧
      (sendBytes [.takes 1, .fails] [0x30#8, 0x31#8]).result = some (.error .writeError) := by
  refine ⟨by decide, by decide, by decide, rfl, rfl⟩
/-- The remaining hypothesis: the sender's flow has a payload. -/
theorem witness_TransmissionEndToEnd_payload :
    ∃ payload, (send ⟨.structural, 16, 0, 16, 0, 0, 0, true, false, ⟨0, 1, 2, 0, 0⟩⟩ .noError ['1'] State.reset).2 =
      .ok payload := ⟨_, rfl⟩

end Sys2Proof.Tests
end

/-! The counters PIDX and FCNT only rise, except by a clear (00_scope.md R6, R12). The counters are compared as
unsigned words; that a saturated one stays then follows, since no word lies above 0xFFFFFFFF. -/

namespace Sys2Proof.Claims

open Sys2Proof.Machine

/-- Neither PIDX nor FCNT is lower in `t` than in `s`. -/
def CountersLe (s t : State) : Prop :=
  s.pidx ≤ t.pidx ∧ s.fcnt ≤ t.fcnt

theorem CountersLe.trans {s t u : State} (hst : CountersLe s t) (htu : CountersLe t u) : CountersLe s u :=
  ⟨BitVec.le_trans hst.1 htu.1, BitVec.le_trans hst.2 htu.2⟩

theorem countersLe_of_eq {s t : State} (hpidx : t.pidx = s.pidx) (hfcnt : t.fcnt = s.fcnt) : CountersLe s t :=
  ⟨hpidx ▸ BitVec.le_refl _, hfcnt ▸ BitVec.le_refl _⟩

theorem countersLe_refl (s : State) : CountersLe s s := countersLe_of_eq rfl rfl

theorem le_satinc (x : Word) : x ≤ satinc x := by
  rw [BitVec.le_def, satinc_toNat]
  omega

/-- Saturation is absorbing: nothing lies above it. -/
theorem eq_counterMax_of_le {x y : Word} (hle : x ≤ y) (hx : x = 0xFFFFFFFF#32) : y = 0xFFFFFFFF#32 := by
  subst hx
  bv_omega

theorem fdPush_countersLe (f : Bool) (s : State) : CountersLe s (fdPush f s) :=
  ⟨BitVec.le_refl _, le_satinc s.fcnt⟩

theorem fdRun_countersLe (fs : BitSeq) (s : State) : CountersLe s (fdRun fs s) := by
  induction fs generalizing s with
  | nil => exact countersLe_refl s
  | cons f fs ih => exact (fdPush_countersLe f s).trans (ih (fdPush f s))

/-- A bit step leaves PIDX alone when it holds the first half of a pair, and counts it when it completes one. -/
theorem mdStep_countersLe (e : Bool) (s : State) : CountersLe s (mdStep e s).1 := by
  obtain ⟨-, h⟩ | ⟨-, -, h⟩ | ⟨-, -, -, h⟩ | ⟨-, -, -, h⟩ := mdStep_cases e s <;> rw [h]
  · exact countersLe_of_eq rfl rfl
  all_goals exact ⟨le_satinc s.pidx, BitVec.le_refl _⟩

theorem mdRun_countersLe (es : BitSeq) (s : State) : CountersLe s (mdRun es s).1 := by
  induction es generalizing s with
  | nil => exact countersLe_refl s
  | cons e es ih =>
    have hstep := mdStep_countersLe e s
    rw [mdRun_cons]
    split
    · exact hstep.trans (ih _)
    · next b _ => exact hstep.trans ((fdPush_countersLe b _).trans (ih _))

/-- Only the feeds move a counter, and only while the receive sequence is open; every other command but a clear leaves
both as they are. -/
theorem exec_countersLe {i : Instr} {s t : State} (hexec : exec i s = .next t) (hclear : i.clearsRx = false) :
    CountersLe s t := by
  cases i with
  | rxClr | srst => cases hclear
  | nop | crcClr | crcFeed | menc | rd => cases hexec; exact countersLe_of_eq rfl rfl
  | rxEnd => cases hexec; exact countersLe_of_eq s.endRx_pidx s.endRx_fcnt
  | faTail =>
    cases hcne : s.cne with
    | true => rw [exec_faTail_ok s hcne] at hexec; cases hexec; exact countersLe_of_eq rfl rfl
    | false => rw [exec_faTail_empty s hcne] at hexec; cases hexec; exact countersLe_of_eq rfl rfl
  | mdFeed n d =>
    cases hdone : s.done with
    | true => rw [exec_mdFeed_closed n d s hdone] at hexec; cases hexec; exact countersLe_of_eq rfl rfl
    | false => rw [exec_mdFeed_open n d s hdone] at hexec; cases hexec; exact mdRun_countersLe _ s
  | fdFeed n d =>
    cases hdone : s.done with
    | true => rw [exec_fdFeed_closed n d s hdone] at hexec; cases hexec; exact countersLe_of_eq rfl rfl
    | false => rw [exec_fdFeed_open n d s hdone] at hexec; cases hexec; exact fdRun_countersLe _ s

/-- Settles O30: no command but a clear lowers a counter, and saturation is absorbing. -/
theorem countersNeverWrap : Obligations.CountersNeverWrap := by
  unfold Obligations.CountersNeverWrap
  intro i s t hexec hclear
  obtain ⟨hpidx, hfcnt⟩ := exec_countersLe hexec hclear
  exact ⟨hpidx, hfcnt, eq_counterMax_of_le hpidx, eq_counterMax_of_le hfcnt⟩

end Sys2Proof.Claims

/-! What a command does to the elements before it answers, and what a step does with the host's oldest move. The proofs
about every command (10_state.md R18, R23, R27, R37) go through these facts. -/

namespace Sys2Proof.Machine

/-- A command's effect on every element but the response registers (10_state.md R18). A closed feed has none. -/
def State.effect (i : Instr) (s : State) : State :=
  match i with
  | .crcClr => s.clearCrc
  | .crcFeed n d => s.feedCrc (seqF n d)
  | .rxClr => s.clearRx
  | .mdFeed n d => if s.done = true then s else (mdRun (seqF n d) s).1
  | .fdFeed n d => if s.done = true then s else fdRun (seqF n d) s
  | .rxEnd => s.endRx
  | .srst => s.clearCrc.clearRx
  | .nop => s
  | .faTail => s
  | .menc _ _ => s
  | .rd _ => s

/-- Every command has its effect and then answers (43_control.md R109). -/
theorem exec_eq_effect_respond (i : Instr) (s : State) :
    ∃ c v, exec i s = .next ((s.effect i).respond c v) := by
  cases i with
  | nop | crcClr | crcFeed | menc | rxClr | rxEnd | rd | srst => exact ⟨_, _, rfl⟩
  | faTail =>
    cases hcne : s.cne with
    | true => exact ⟨_, _, exec_faTail_ok s hcne⟩
    | false => exact ⟨_, _, exec_faTail_empty s hcne⟩
  | mdFeed n d =>
    cases hdone : s.done with
    | true => exact ⟨_, _, by rw [exec_mdFeed_closed n d s hdone, State.effect, if_pos hdone]; rfl⟩
    | false => exact ⟨_, _, by rw [exec_mdFeed_open n d s hdone, State.effect, hdone]; rfl⟩
  | fdFeed n d =>
    cases hdone : s.done with
    | true => exact ⟨_, _, by rw [exec_fdFeed_closed n d s hdone, State.effect, if_pos hdone]; rfl⟩
    | false => exact ⟨_, _, by rw [exec_fdFeed_open n d s hdone, State.effect, hdone]; rfl⟩

theorem eq_effect_respond_of_exec {i : Instr} {s t : State} (hexec : exec i s = .next t) :
    ∃ c v, t = (s.effect i).respond c v := by
  obtain ⟨c, v, h⟩ := exec_eq_effect_respond i s
  rw [h] at hexec
  cases hexec
  exact ⟨c, v, rfl⟩

/-- Everything a word can do: run the command it decodes to, or only be answered. -/
theorem acceptWord_cases {w : Word} {s t : State} (haccept : acceptWord w s = .next t) :
    (∃ i c v, decode w = .ok i ∧ t = (s.effect i).respond c v) ∨ ∃ c v, t = s.respond c v := by
  cases hdecode : decode w with
  | ok i =>
    rw [acceptWord_command w s i hdecode] at haccept
    obtain ⟨c, v, h⟩ := eq_effect_respond_of_exec haccept
    exact .inl ⟨i, c, v, rfl, h⟩
  | error e =>
    rw [acceptWord_illegal w s e hdecode] at haccept
    cases haccept
    exact .inr ⟨_, _, rfl⟩

theorem step_idle {s : State} (hport : s.port = []) : step s = .next s := by
  simp [step, hport]

theorem step_command {s : State} {w : Word} {rest : List HostMove} (hport : s.port = .command w :: rest) :
    step s = acceptWord w { s with port := rest } := by
  simp [step, hport, takeMove]

theorem step_reset {s : State} {inFlight : Option Word} {rest : List HostMove}
    (hport : s.port = .reset inFlight :: rest) : step s = .next { State.reset with port := rest } := by
  simp [step, hport, takeMove, hostReset]

/-- What every step keeps holds after a run from a state where it holds. -/
theorem run_keeps {P : State → Prop} (hstep : ∀ s t, P s → step s = .next t → P t) (n : Nat)
    {s t : State} (hs : P s) (hrun : Host.Core.run Sys2Proof.core n s = .next t) : P t := by
  induction n generalizing s with
  | zero => cases hrun; exact hs
  | succ n ih =>
    have hstep' : Sys2Proof.core.step s = step s := rfl
    cases h : step s with
    | next u =>
      simp only [Host.Core.run, hstep', h] at hrun
      exact ih (hstep s u hs h) hrun
    | fault r => cases r
    | refused r => simp [Host.Core.run, hstep', h] at hrun

end Sys2Proof.Machine

/-! A word and the command it decodes to: the word is the command's own, and the word of a well-formed command decodes
to it (30_encoding.md R49 to R54). -/

namespace Sys2Proof

/-- A word is its four fields (30_encoding.md R49). -/
theorem fields_append (w : Word) : opField w ++ rsvField w ++ nField w ++ dField w = w := by
  apply BitVec.eq_of_getLsbD_eq
  intro j hj
  unfold opField rsvField nField dField
  simp only [BitVec.getLsbD_append, BitVec.getLsbD_extractLsb']
  split_ifs
  · simp [*]
  · rw [decide_eq_true (by omega), Bool.true_and, show 16 + (j - 16) = j by omega]
  · rw [decide_eq_true (by omega), Bool.true_and, show 21 + (j - 16 - 5) = j by omega]
  · rw [decide_eq_true (by omega), Bool.true_and, show 24 + (j - 16 - 5 - 3) = j by omega]

theorem encode_eq_of_fields {i : Instr} {w : Word} (hop : (opcode i).toNat = (opField w).toNat)
    (hrsv : rsvField w = 0#3) (hcount : countOf i = nField w) (hdata : dataOf i = dField w) : encode i = w := by
  rw [encode, BitVec.eq_of_toNat_eq hop, hcount, hdata, ← hrsv, fields_append]

theorem decodeZ_eq_ok {i j : Instr} {w : Word} (h : decodeZ i w = .ok j) :
    i = j ∧ rsvField w = 0#3 ∧ nField w = 0#5 ∧ dField w = 0#16 := by
  unfold decodeZ at h
  split_ifs at h with hrsv hn hd
  cases h
  exact ⟨rfl, not_not.mp hrsv, not_not.mp hn, not_not.mp hd⟩

theorem decodeF_eq_ok {mk : Nat → Half → Instr} {j : Instr} {w : Word} (h : decodeF mk w = .ok j) :
    mk (nField w).toNat (dField w) = j ∧ rsvField w = 0#3 := by
  unfold decodeF at h
  dsimp only at h
  split_ifs at h with hrsv
  cases h
  exact ⟨rfl, not_not.mp hrsv⟩

/-- The map of 10_state.md R30, read both ways. -/
theorem indexOfReg_of_regOfIndex {k : Nat} {r : Reg} (h : regOfIndex k = some r) : (indexOfReg r).toNat = k := by
  unfold regOfIndex at h
  split at h <;> cases h <;> rfl

theorem decodeR_eq_ok {j : Instr} {w : Word} (h : decodeR w = .ok j) :
    ∃ r, j = .rd r ∧ rsvField w = 0#3 ∧ nField w = 0#5 ∧ indexOfReg r = dField w := by
  unfold decodeR at h
  split_ifs at h with hrsv hn hd
  split at h
  · next r hr =>
    cases h
    refine ⟨r, rfl, not_not.mp hrsv, not_not.mp hn, BitVec.eq_of_toNat_eq ?_⟩
    have hhigh := congrArg BitVec.toNat (not_not.mp hd)
    rw [indexOfReg_of_regOfIndex hr]
    simp only [BitVec.extractLsb'_toNat, Nat.shiftRight_eq_div_pow, BitVec.toNat_ofNat] at hhigh ⊢
    have := (dField w).isLt
    omega
  · cases h

/-- The word that decodes to a command is that command's word (30_encoding.md R54). -/
theorem encode_of_decode {w : Word} {i : Instr} (h : decode w = .ok i) : encode i = w := by
  unfold decode at h
  split at h
  case h_12 => cases h
  case h_10 hop =>
    obtain ⟨r, rfl, hrsv, hn, hindex⟩ := decodeR_eq_ok h
    exact encode_eq_of_fields hop.symm hrsv hn.symm hindex
  case h_3 hop | h_5 hop | h_7 hop | h_8 hop =>
    obtain ⟨rfl, hrsv⟩ := decodeF_eq_ok h
    exact encode_eq_of_fields hop.symm hrsv (BitVec.ofNat_toNat _ _) rfl
  all_goals
    next hop =>
    obtain ⟨rfl, hrsv, hn, hd⟩ := decodeZ_eq_ok h
    exact encode_eq_of_fields hop.symm hrsv hn.symm hd.symm

/-- Format F gives its operands back, for any command whose word has the shape of R49. -/
theorem decodeF_encode {mk : Nat → Half → Instr} {n : Nat} {d : Half} (hops : FeedOperands n d)
    (hshape : Laws.WordShape.Statement (mk n d)) (hcount : countOf (mk n d) = BitVec.ofNat 5 n)
    (hdata : dataOf (mk n d) = d) : decodeF mk (encode (mk n d)) = .ok (mk n d) := by
  obtain ⟨-, hrsv, hn, hd⟩ := hshape
  obtain ⟨hpos, hle, hunused⟩ := hops
  have hval : (BitVec.ofNat 5 n).toNat = n := by
    rw [BitVec.toNat_ofNat]
    omega
  unfold decodeF
  rw [hrsv, hn, hd, hcount, hdata, hval]
  dsimp only
  rw [if_neg (by decide), if_neg (by omega), if_neg (not_not.mpr hunused)]

/-- The decoder reads the command's own format off its opcode. -/
theorem decode_encode {i : Instr} (hwf : i.WellFormed) : decode (encode i) = .ok i := by
  cases i with
  | nop | crcClr | faTail | rxClr | rxEnd | srst => decide
  | rd r => cases r <;> decide
  | crcFeed n d =>
    rw [decode, (Laws.WordShape.crcFeed n d).1]
    exact decodeF_encode hwf (Laws.WordShape.crcFeed n d) rfl rfl
  | menc n d =>
    rw [decode, (Laws.WordShape.menc n d).1]
    exact decodeF_encode hwf (Laws.WordShape.menc n d) rfl rfl
  | mdFeed n d =>
    rw [decode, (Laws.WordShape.mdFeed n d).1]
    exact decodeF_encode hwf (Laws.WordShape.mdFeed n d) rfl rfl
  | fdFeed n d =>
    rw [decode, (Laws.WordShape.fdFeed n d).1]
    exact decodeF_encode hwf (Laws.WordShape.fdFeed n d) rfl rfl

end Sys2Proof

/-! The invariant of reachable states (10_state.md R37). It speaks of the receive channel only, so the operations that
matter are the two bit steps, RX.END and the clears. -/

namespace Sys2Proof.Machine

open Sys2Proof.Claims

/-- The invariant reads the elements of the receive channel only. -/
theorem State.Inv.of_sameRx {s t : State} (hs : s.Inv) (hrx : SameRx s t) : t.Inv := by
  obtain ⟨hhv, hh, hpidx, hev, hepos, heobs, htail, hrxcrc, hfcnt, hdone, hverd⟩ := hrx
  constructor
  · rw [← hhv, ← hh]; exact hs.halfClear
  · rw [← hev, ← hepos, ← heobs]; exact hs.recordClear
  · rw [← hev, ← heobs]; exact hs.recordPair
  · rw [← hev, ← hepos, ← hpidx]; exact hs.recordBelow
  · rw [← hdone, ← hverd]; exact hs.doneVerdict
  · rw [← hfcnt, ← htail]; exact hs.tailFits
  · rw [← hfcnt, ← hrxcrc]; exact hs.rxcrcClear

theorem State.reset_inv : State.reset.Inv := by
  constructor <;> decide

/-- A cleared receive channel agrees with the reset state's. -/
theorem State.clearRx_inv (s : State) : s.clearRx.Inv :=
  State.reset_inv.of_sameRx (by simp [SameRx, State.reset])

theorem State.verdict_ne_none (s : State) : s.verdict ≠ .none := by
  unfold State.verdict
  split_ifs <;> simp

/-- RX.END stores a verdict as it sets DONE (42_frame.md R97). -/
theorem State.Inv.endRx {s : State} (hs : s.Inv) : s.endRx.Inv := by
  cases hdone : s.done with
  | true => simpa [State.endRx, hdone] using hs
  | false =>
    have hend : s.endRx = { s with verd := s.verdict, done := true } := by simp [State.endRx, hdone]
    rw [hend]
    exact { hs with doneVerdict := by simp [s.verdict_ne_none] }

/-- The delay line holds as many bits as FCNT counts, until it is full; only then a bit leaves it (42_frame.md R94). -/
theorem State.Inv.fdPush {s : State} (hs : s.Inv) (f : Bool) : (fdPush f s).Inv where
  halfClear := hs.halfClear
  recordClear := hs.recordClear
  recordPair := hs.recordPair
  recordBelow := hs.recordBelow
  doneVerdict := hs.doneVerdict
  tailFits := by
    rw [fdPush_fcnt, fdPush_tail]
    intro hlt
    have hcount : (satinc s.fcnt).toNat = s.fcnt.toNat + 1 := by
      have := satinc_toNat s.fcnt
      omega
    have htail := hs.tailFits (by omega)
    rw [hcount, BitVec.toNat_or]
    apply Nat.or_lt_two_pow
    · rw [BitVec.toNat_shiftLeft, Nat.shiftLeft_eq, pow_succ]
      exact (Nat.mod_le _ _).trans_lt (by omega)
    · have hbit : ((BitVec.ofBool f).setWidth 16).toNat ≤ 1 := by cases f <;> decide
      have := Nat.one_lt_two_pow (n := s.fcnt.toNat + 1) (by omega)
      omega
  rxcrcClear := by
    rw [fdPush_fcnt, fdPush_rxcrc]
    intro hle
    have hcount := satinc_toNat s.fcnt
    have hshort : ¬ 16#32 ≤ s.fcnt := by
      rw [BitVec.le_def]
      simp only [BitVec.toNat_ofNat]
      omega
    rw [if_neg hshort]
    exact hs.rxcrcClear (by omega)

theorem State.Inv.fdRun {s : State} (hs : s.Inv) (fs : BitSeq) : (fdRun fs s).Inv := by
  induction fs generalizing s with
  | nil => exact hs
  | cons f fs ih => exact ih (hs.fdPush f)

theorem satinc_counterMax : satinc Config.counterMax = Config.counterMax := by decide

/-- The first invalid pair's index is below the counter that then counts the pair, unless both are saturated. -/
theorem lt_satinc_or_saturated (x : Word) :
    x.toNat < (satinc x).toNat ∨ (x = Config.counterMax ∧ satinc x = Config.counterMax) := by
  by_cases hx : x = Config.counterMax
  · exact .inr ⟨hx, hx ▸ satinc_counterMax⟩
  · left
    have hne : x.toNat ≠ 4294967295 := fun h => hx (BitVec.eq_of_toNat_eq (by simpa [Config.counterMax] using h))
    have := satinc_toNat x
    omega

/-- A completed pair that is not recorded: PIDX rises above the recorded index as before (10_state.md R22). -/
theorem State.Inv.completePair {s : State} (hs : s.Inv) :
    ({ s with hv := false, h := false, pidx := satinc s.pidx } : State).Inv :=
  { hs with
    halfClear := fun _ => rfl
    recordBelow := fun hev => by
      obtain hlt | ⟨hepos, hpidx⟩ := hs.recordBelow hev
      · exact .inl (hlt.trans_le (le_satinc s.pidx))
      · exact .inr ⟨hepos, by rw [hpidx]; exact satinc_counterMax⟩ }

/-- A completed pair that is recorded: its index is PIDX before it is counted (10_state.md R23). -/
theorem State.Inv.recordInvalidPair {s : State} (hs : s.Inv) (e : Bool) :
    ({ s with hv := false, h := false, pidx := satinc s.pidx, ev := true, epos := s.pidx,
              eobs := BitVec.ofBool e ++ BitVec.ofBool e } : State).Inv :=
  { hs with
    halfClear := fun _ => rfl
    recordClear := fun hev => by cases hev
    recordPair := fun _ => match e with
      | false => .inl rfl
      | true => .inr rfl
    recordBelow := fun _ => lt_satinc_or_saturated s.pidx }

theorem State.Inv.mdStep {s : State} (hs : s.Inv) (e : Bool) : (mdStep e s).1.Inv := by
  obtain ⟨-, h⟩ | ⟨-, -, h⟩ | ⟨-, -, -, h⟩ | ⟨-, -, -, h⟩ := mdStep_cases e s <;> rw [h]
  · exact { hs with halfClear := fun hhv => by cases hhv }
  · exact hs.completePair
  · exact hs.completePair
  · exact hs.recordInvalidPair e

theorem State.Inv.mdRun {s : State} (hs : s.Inv) (es : BitSeq) : (mdRun es s).1.Inv := by
  induction es generalizing s with
  | nil => exact hs
  | cons e es ih =>
    rw [mdRun_cons]
    split
    · exact ih (hs.mdStep e)
    · next b _ => exact ih ((hs.mdStep e).fdPush b)

theorem State.Inv.effect {s : State} (hs : s.Inv) (i : Instr) : (s.effect i).Inv := by
  cases i with
  | nop | faTail | menc | rd => exact hs
  | crcClr | crcFeed => exact hs.of_sameRx (by simp [State.effect, SameRx])
  | rxClr | srst => exact State.clearRx_inv _
  | rxEnd => exact hs.endRx
  | mdFeed n d =>
    rw [State.effect]
    split
    · exact hs
    · exact hs.mdRun _
  | fdFeed n d =>
    rw [State.effect]
    split
    · exact hs
    · exact hs.fdRun _

theorem State.Inv.respond {s : State} (hs : s.Inv) (c : RCode) (v : Word) : (s.respond c v).Inv :=
  hs.of_sameRx (by simp [SameRx])

theorem State.Inv.withPort {s : State} (hs : s.Inv) (moves : List HostMove) : ({ s with port := moves } : State).Inv :=
  hs.of_sameRx (by simp [SameRx])

theorem State.Inv.acceptWord {s t : State} {w : Word} (hs : s.Inv) (haccept : acceptWord w s = .next t) : t.Inv := by
  obtain ⟨i, c, v, -, rfl⟩ | ⟨c, v, rfl⟩ := acceptWord_cases haccept
  · exact (hs.effect i).respond c v
  · exact hs.respond c v

theorem State.Inv.step {s t : State} (hs : s.Inv) (hstep : step s = .next t) : t.Inv := by
  match hport : s.port with
  | [] =>
    rw [step_idle hport] at hstep
    cases hstep
    exact hs
  | .command w :: rest =>
    rw [step_command hport] at hstep
    exact (hs.withPort rest).acceptWord hstep
  | .reset inFlight :: rest =>
    rw [step_reset hport] at hstep
    cases hstep
    exact State.reset_inv.withPort rest

end Sys2Proof.Machine

namespace Sys2Proof.Claims

open Sys2Proof.Machine

/-- Settles O36: every step keeps the invariant, so every run from reset does. -/
theorem stepKeepsInvariant : Obligations.StepKeepsInvariant := by
  unfold Obligations.StepKeepsInvariant
  refine ⟨fun s t hs hstep => hs.step hstep, fun n moves t hrun => ?_⟩
  exact run_keeps (fun s u hs hstep => hs.step hstep) n (State.reset_inv.withPort moves) hrun

/-- Settles O35: the reset state meets each clause, and no verdict is stored in it. -/
theorem resetSatisfiesInvariant : Obligations.ResetSatisfiesInvariant := by
  unfold Obligations.ResetSatisfiesInvariant
  exact ⟨State.reset_inv, by decide⟩

end Sys2Proof.Claims

/-! Which elements a command may change (10_state.md R18). -/

namespace Sys2Proof.Machine

/-- Every command is listed as a writer of both response registers (10_state.md R33). -/
theorem mnemonic_mem_response_writers (i : Instr) :
    i.mnemonic ∈ Element.rdata.writers ∧ i.mnemonic ∈ Element.rcode.writers := by
  cases i <;> simp [Instr.mnemonic, Element.writers]

theorem State.respond_element (c : RCode) (v : Word) (s : State) {e : Element} (hdata : e ≠ .rdata)
    (hcode : e ≠ .rcode) : (s.respond c v).element e = s.element e := by
  cases e with
  | rdata | rcode => contradiction
  | _ => rfl

/-- The effect of a command is on the elements it is listed for; a feed's is bounded by the frame of its bit loop. -/
theorem State.effect_element (i : Instr) (s : State) {e : Element} (hnot : i.mnemonic ∉ e.writers) :
    (s.effect i).element e = s.element e := by
  cases i with
  | nop | faTail | menc | rd => rfl
  | crcClr | crcFeed =>
    cases e with
    | crc | cne => simp [Instr.mnemonic, Element.writers] at hnot
    | _ => rfl
  | rxClr =>
    cases e with
    | crc | cne | rdata | rcode => rfl
    | _ => simp [Instr.mnemonic, Element.writers] at hnot
  | mdFeed n d =>
    rw [State.effect]
    split
    · rfl
    · obtain ⟨hcrc, hcne, hdone, hverd, hrdata, hrcode, -⟩ := mdRun_frame (seqF n d) s
      cases e with
      | crc | cne | done | verd | rdata | rcode => simp [State.element, hcrc, hcne, hdone, hverd, hrdata, hrcode]
      | _ => simp [Instr.mnemonic, Element.writers] at hnot
  | fdFeed n d =>
    rw [State.effect]
    split
    · rfl
    · obtain ⟨hcrc, hcne, hhv, hh, hpidx, hev, hepos, heobs, hdone, hverd, hrdata, hrcode, -⟩ :=
        fdRun_frame (seqF n d) s
      cases e with
      | tail | rxcrc | fcnt => simp [Instr.mnemonic, Element.writers] at hnot
      | _ => simp [State.element, *]
  | rxEnd =>
    cases e with
    | done | verd => simp [Instr.mnemonic, Element.writers] at hnot
    | _ => simp [State.effect, State.element]
  | srst =>
    cases e with
    | rdata | rcode => rfl
    | _ => simp [Instr.mnemonic, Element.writers] at hnot

/-- No command reads or writes the host's later moves (log entries 1 and 3). -/
theorem State.effect_port (i : Instr) (s : State) : (s.effect i).port = s.port := by
  cases i with
  | nop | faTail | menc | rd | crcClr | crcFeed | rxClr | srst => rfl
  | rxEnd => exact s.endRx_port
  | mdFeed n d =>
    obtain ⟨-, -, -, -, -, -, hport⟩ := mdRun_frame (seqF n d) s
    rw [State.effect]
    split <;> simp [hport]
  | fdFeed n d =>
    obtain ⟨-, -, -, -, -, -, -, -, -, -, -, -, hport⟩ := fdRun_frame (seqF n d) s
    rw [State.effect]
    split <;> simp [hport]

end Sys2Proof.Machine

namespace Sys2Proof.Claims

open Sys2Proof.Machine

/-- Settles O26: a command's effect is on its listed elements, and its response is listed for every command. -/
theorem elementsWrittenOnlyByTheirCommands : Obligations.ElementsWrittenOnlyByTheirCommands := by
  unfold Obligations.ElementsWrittenOnlyByTheirCommands
  intro i s t hexec
  obtain ⟨c, v, rfl⟩ := eq_effect_respond_of_exec hexec
  obtain ⟨hrdata, hrcode⟩ := mnemonic_mem_response_writers i
  refine ⟨fun e hnot => ?_, State.effect_port i s⟩
  have hdata : e ≠ .rdata := fun h => hnot (h ▸ hrdata)
  have hcode : e ≠ .rcode := fun h => hnot (h ▸ hrcode)
  rw [State.respond_element c v _ hdata hcode, State.effect_element i s hnot]

end Sys2Proof.Claims

/-! The verdict and the record of the first invalid pair stand until the receive channel is cleared (10_state.md R23,
R27). -/

namespace Sys2Proof.Claims

open Sys2Proof.Machine

/-- An ended receive sequence stays ended, with its verdict. -/
def VerdictKept (s t : State) : Prop := s.done = true → t.done = true ∧ t.verd = s.verd

/-- A recorded invalid pair stays recorded as it is. -/
def RecordKept (s t : State) : Prop := s.ev = true → t.ev = true ∧ t.epos = s.epos ∧ t.eobs = s.eobs

theorem verdictKept_of_eq {s t : State} (hdone : t.done = s.done) (hverd : t.verd = s.verd) : VerdictKept s t :=
  fun h => ⟨hdone.trans h, hverd⟩

theorem recordKept_of_eq {s t : State} (hev : t.ev = s.ev) (hepos : t.epos = s.epos) (heobs : t.eobs = s.eobs) :
    RecordKept s t :=
  fun h => ⟨hev.trans h, hepos, heobs⟩

theorem RecordKept.trans {s t u : State} (hst : RecordKept s t) (htu : RecordKept t u) : RecordKept s u := by
  intro hev
  obtain ⟨hev', hepos, heobs⟩ := hst hev
  obtain ⟨hev'', hepos', heobs'⟩ := htu hev'
  exact ⟨hev'', hepos'.trans hepos, heobs'.trans heobs⟩

/-- A pair is recorded only while none is (41_manchester.md R79). -/
theorem mdStep_recordKept (e : Bool) (s : State) : RecordKept s (mdStep e s).1 := by
  obtain ⟨-, h⟩ | ⟨-, -, h⟩ | ⟨-, -, -, h⟩ | ⟨-, hev, -, h⟩ := mdStep_cases e s <;> rw [h]
  · exact recordKept_of_eq rfl rfl rfl
  · exact recordKept_of_eq rfl rfl rfl
  · exact recordKept_of_eq rfl rfl rfl
  · exact fun hev' => absurd (hev.symm.trans hev') (by decide)

theorem mdRun_recordKept (es : BitSeq) (s : State) : RecordKept s (mdRun es s).1 := by
  induction es generalizing s with
  | nil => exact recordKept_of_eq rfl rfl rfl
  | cons e es ih =>
    rw [mdRun_cons]
    split
    · exact (mdStep_recordKept e s).trans (ih _)
    · next b _ => exact ((mdStep_recordKept e s).trans (recordKept_of_eq rfl rfl rfl)).trans (ih (fdPush b _))

/-- RX.END stores a verdict only once, and no command but a clear lowers DONE (42_frame.md R96, R97). -/
theorem effect_verdictKept {i : Instr} (s : State) (hclear : i.clearsRx = false) : VerdictKept s (s.effect i) := by
  cases i with
  | rxClr | srst => cases hclear
  | nop | faTail | menc | rd | crcClr | crcFeed => exact verdictKept_of_eq rfl rfl
  | rxEnd => exact fun hdone => ⟨s.endRx_done, by rw [State.effect, State.endRx_verd, if_neg (by simp [hdone])]⟩
  | mdFeed | fdFeed => exact fun hdone => by rw [State.effect, if_pos hdone]; exact ⟨hdone, rfl⟩

theorem effect_recordKept {i : Instr} (s : State) (hclear : i.clearsRx = false) : RecordKept s (s.effect i) := by
  cases i with
  | rxClr | srst => cases hclear
  | nop | faTail | menc | rd | crcClr | crcFeed => exact recordKept_of_eq rfl rfl rfl
  | rxEnd => exact recordKept_of_eq s.endRx_ev s.endRx_epos s.endRx_eobs
  | mdFeed n d =>
    rw [State.effect]
    split
    · exact recordKept_of_eq rfl rfl rfl
    · exact mdRun_recordKept _ s
  | fdFeed n d =>
    obtain ⟨-, -, -, -, -, hev, hepos, heobs, -⟩ := fdRun_frame (seqF n d) s
    rw [State.effect]
    split
    · exact recordKept_of_eq rfl rfl rfl
    · exact recordKept_of_eq hev hepos heobs

/-- RX.CLR and SRST are the only clears, and each has one word. -/
theorem clearsRx_of_decode {w : Word} {i : Instr} (hdecode : decode w = .ok i) (hclr : w ≠ encode .rxClr)
    (hsrst : w ≠ encode .srst) : i.clearsRx = false := by
  have hword := encode_of_decode hdecode
  cases i with
  | rxClr => exact absurd hword.symm hclr
  | srst => exact absurd hword.symm hsrst
  | _ => rfl

/-- Settles O29: neither a command's effect, unless it clears, nor a response changes either record. -/
theorem recordsPersistUntilCleared : Obligations.RecordsPersistUntilCleared := by
  unfold Obligations.RecordsPersistUntilCleared
  intro s t w rest hport hclr hsrst hstep
  rw [step_command hport] at hstep
  obtain ⟨i, c, v, hdecode, rfl⟩ | ⟨c, v, rfl⟩ := acceptWord_cases hstep
  · have hclear := clearsRx_of_decode hdecode hclr hsrst
    exact ⟨effect_verdictKept { s with port := rest } hclear, effect_recordKept { s with port := rest } hclear⟩
  · exact ⟨verdictKept_of_eq rfl rfl, recordKept_of_eq rfl rfl rfl⟩

end Sys2Proof.Claims

/-! No command reads the response registers (10_state.md R33): an answer given before a command makes no difference to
it. Each shared operation runs the same with another response in the state, and each command then writes its own. -/

namespace Sys2Proof.Machine

@[simp] theorem State.respond_respond (c c' : RCode) (v v' : Word) (s : State) :
    (s.respond c v).respond c' v' = s.respond c' v' := rfl

@[simp] theorem State.rejectCommand_respond (c c' : RCode) (v : Word) (s : State) :
    (s.respond c v).rejectCommand c' = s.rejectCommand c' := rfl

@[simp] theorem State.readReg_respond (c : RCode) (v : Word) (s : State) (r : Reg) :
    (s.respond c v).readReg r = s.readReg r := by
  cases r <;> rfl

theorem State.endRx_respond (c : RCode) (v : Word) (s : State) : (s.respond c v).endRx = s.endRx.respond c v := by
  cases hdone : s.done with
  | true => rw [State.endRx, State.endRx, if_neg (by simp [hdone]), if_neg (by simp [hdone])]
  | false => rw [State.endRx, State.endRx, if_pos (by simp [hdone]), if_pos hdone]; rfl

theorem fdPush_respond (c : RCode) (v : Word) (f : Bool) (s : State) :
    fdPush f (s.respond c v) = (fdPush f s).respond c v := rfl

theorem fdRun_respond (c : RCode) (v : Word) (fs : BitSeq) (s : State) :
    fdRun fs (s.respond c v) = (fdRun fs s).respond c v := by
  induction fs generalizing s with
  | nil => rfl
  | cons f fs ih => rw [fdRun, fdPush_respond, ih, fdRun]

theorem mdStep_respond (c : RCode) (v : Word) (e : Bool) (s : State) :
    mdStep e (s.respond c v) = ((mdStep e s).1.respond c v, (mdStep e s).2) := by
  obtain ⟨hhv, h⟩ | ⟨hhv, hev, h⟩ | ⟨hhv, hev, he, h⟩ | ⟨hhv, hev, he, h⟩ := mdStep_cases e s <;> rw [h]
  · simp [mdStep, hhv, State.respond]
  · simp [mdStep, hhv, hev, State.respond]
  · cases hh : s.h <;> simp [mdStep, hhv, hev, hh, he, State.respond]
  · cases hh : s.h <;> simp [mdStep, hhv, hev, hh, he, State.respond]

theorem mdRun_respond (c : RCode) (v : Word) (es : BitSeq) (s : State) :
    mdRun es (s.respond c v) = ((mdRun es s).1.respond c v, (mdRun es s).2) := by
  induction es generalizing s with
  | nil => rfl
  | cons e es ih =>
    rw [mdRun_cons, mdRun_cons, mdStep_respond]
    cases (mdStep e s).2 with
    | none => exact ih _
    | some b =>
      dsimp only
      rw [fdPush_respond, ih]

/-- A command runs the same whatever response stands before it. -/
theorem exec_respond (i : Instr) (c : RCode) (v : Word) (s : State) : exec i (s.respond c v) = exec i s := by
  cases i with
  | nop | crcClr | crcFeed | menc | rxClr | srst => rfl
  | rd r => simp
  | rxEnd => rw [exec_rxEnd, exec_rxEnd, State.endRx_respond]; rfl
  | faTail =>
    cases hcne : s.cne with
    | true => rw [exec_faTail_ok _ hcne, exec_faTail_ok (s.respond c v) hcne]; rfl
    | false => rw [exec_faTail_empty _ hcne, exec_faTail_empty (s.respond c v) hcne]; rfl
  | mdFeed n d =>
    cases hdone : s.done with
    | true => rw [exec_mdFeed_closed n d _ hdone, exec_mdFeed_closed n d (s.respond c v) hdone]; rfl
    | false =>
      rw [exec_mdFeed_open n d _ hdone, exec_mdFeed_open n d (s.respond c v) hdone, mdRun_respond]
      rfl
  | fdFeed n d =>
    cases hdone : s.done with
    | true => rw [exec_fdFeed_closed n d _ hdone, exec_fdFeed_closed n d (s.respond c v) hdone]; rfl
    | false =>
      rw [exec_fdFeed_open n d _ hdone, exec_fdFeed_open n d (s.respond c v) hdone, fdRun_respond]
      rfl

theorem acceptWord_respond (w : Word) (c : RCode) (v : Word) (s : State) :
    acceptWord w (s.respond c v) = acceptWord w s := by
  cases hdecode : decode w with
  | ok i => rw [acceptWord_command w _ i hdecode, acceptWord_command w s i hdecode, exec_respond]
  | error e => rw [acceptWord_illegal w _ e hdecode, acceptWord_illegal w s e hdecode, State.rejectCommand_respond]

end Sys2Proof.Machine

namespace Sys2Proof.Claims

open Sys2Proof.Machine

/-- Settles O32: `answered` is `respond`, which no word sees; with nothing on the port a step is idle. -/
theorem responseRegistersNeverRead : Obligations.ResponseRegistersNeverRead := by
  unfold Obligations.ResponseRegistersNeverRead
  exact ⟨fun w s c v => acceptWord_respond w c v s, fun s hport => step_idle hport⟩

end Sys2Proof.Claims

/-! RD reaches every element (10_state.md R36): the fields of a register can be read off its value. -/

namespace Sys2Proof.Machine

/-- Both parts of a concatenation can be read off it. -/
theorem append_inj {m n : Nat} {x x' : BitVec m} {y y' : BitVec n} (h : x ++ y = x' ++ y') : x = x' ∧ y = y' := by
  have hlow := congrArg (BitVec.extractLsb' 0 n) h
  have hhigh := congrArg (BitVec.extractLsb' (n + 0) m) h
  rw [Laws.WordShape.slice_low, Laws.WordShape.slice_low] at hlow
  rw [Laws.WordShape.slice_high, Laws.WordShape.slice_high] at hhigh
  exact ⟨by simpa using hhigh, hlow⟩

theorem setWidth_inj {m n : Nat} {x y : BitVec m} (hle : m ≤ n) (h : x.setWidth n = y.setWidth n) : x = y := by
  simpa [BitVec.setWidth_setWidth_of_le, hle] using congrArg (BitVec.setWidth m) h

theorem ofBool_inj {a b : Bool} (h : BitVec.ofBool a = BitVec.ofBool b) : a = b := by
  revert h
  cases a <;> cases b <;> decide

theorem Verdict.code_inj {u v : Verdict} (h : u.code = v.code) : u = v := by
  revert h
  cases u <;> cases v <;> decide

/-- CRCSTAT holds CNE and CRC (10_state.md R32). -/
theorem crcstat_inj {s t : State} (h : s.crcstat = t.crcstat) : s.crc = t.crc ∧ s.cne = t.cne := by
  obtain ⟨h, hcrc⟩ := append_inj h
  obtain ⟨-, hcne⟩ := append_inj h
  exact ⟨hcrc, ofBool_inj hcne⟩

/-- RXSTAT holds VERD, DONE, EOBS, EV, H and HV (10_state.md R32). -/
theorem rxstat_inj {s t : State} (h : s.rxstat = t.rxstat) :
    s.verd = t.verd ∧ s.done = t.done ∧ s.eobs = t.eobs ∧ s.ev = t.ev ∧ s.h = t.h ∧ s.hv = t.hv := by
  obtain ⟨h, hhv⟩ := append_inj (setWidth_inj (by decide) h)
  obtain ⟨h, hh⟩ := append_inj h
  obtain ⟨h, hev⟩ := append_inj h
  obtain ⟨h, heobs⟩ := append_inj h
  obtain ⟨hverd, hdone⟩ := append_inj h
  exact ⟨Verdict.code_inj hverd, ofBool_inj hdone, heobs, ofBool_inj hev, ofBool_inj hh, ofBool_inj hhv⟩

end Sys2Proof.Machine

namespace Sys2Proof.Claims

open Sys2Proof.Machine

/-- Settles O34: CRCSTAT and RXSTAT give back their fields, and the other elements have registers of their own. -/
theorem rdReachesEveryElement : Obligations.RdReachesEveryElement := by
  unfold Obligations.RdReachesEveryElement
  intro s t hread
  obtain ⟨hcrc, hcne⟩ := crcstat_inj (hread .crcstat)
  obtain ⟨hverd, hdone, heobs, hev, hh, hhv⟩ := rxstat_inj (hread .rxstat)
  have htail : s.tail = t.tail := setWidth_inj (by decide) (hread .rxtail)
  have hrxcrc : s.rxcrc = t.rxcrc := setWidth_inj (by decide) (hread .rxcrc)
  exact ⟨hcrc, hcne, hhv, hh, hread .rxpidx, hev, hread .rxepos, heobs, htail, hrxcrc, hread .rxfcnt, hdone, hverd⟩

end Sys2Proof.Claims

/-! The reset values and the constant CFG (10_state.md R31, R35). -/

namespace Sys2Proof.Machine

/-- SRST and the reset state: both clears together leave no element of the state before (43_control.md R107). -/
theorem clearCrc_clearRx_respond_eq_reset (s : State) :
    s.clearCrc.clearRx.respond .ok 0#32 = { State.reset with port := s.port } := rfl

theorem cfgWord_eq : cfgWord = 0x00101021#32 := by decide

end Sys2Proof.Machine

namespace Sys2Proof.Claims

open Sys2Proof.Machine

/-- Settles O11: the table is the definition of the reset state; SRST clears to it, and CFG reads no state. -/
theorem resetValues : Obligations.ResetValues := by
  unfold Obligations.ResetValues
  refine ⟨by decide, fun s => ?_, fun s inFlight => rfl, fun s => ?_⟩
  · rw [exec_srst, clearCrc_clearRx_respond_eq_reset]
  · rw [exec_rd, State.readReg, cfgWord_eq]
    rfl

end Sys2Proof.Claims

/-! The value of a sequence (00_scope.md R10), and a chunk as the operand of a format F command (30_encoding.md R51,
R60). -/

namespace Sys2Proof.Machine

theorem msbVal_append (s t : BitSeq) : msbVal (s ++ t) = msbVal s * 2 ^ t.length + msbVal t := by
  induction t using List.reverseRecOn with
  | nil => simp [msbVal]
  | append_singleton t b ih =>
    rw [← List.append_assoc, msbVal_append_singleton, msbVal_append_singleton, ih, List.length_append,
      List.length_singleton, pow_succ]
    ring

/-- A bit of the value is the bit of the sequence that has so many bits after it. -/
theorem testBit_msbVal (s t : BitSeq) (b : Bool) : (msbVal (s ++ b :: t)).testBit t.length = b := by
  have hlt := msbVal_lt t
  have hval : msbVal (s ++ b :: t) = 2 ^ t.length * (2 * msbVal s + b.toNat) + msbVal t := by
    rw [List.append_cons, msbVal_append, msbVal_append_singleton]
    ring
  rw [Nat.testBit_eq_decide_div_mod_eq, hval, Nat.mul_add_div (by positivity), Nat.div_eq_of_lt hlt]
  cases b <;> simp

theorem val16_toNat {s : BitSeq} (hlen : s.length ≤ 16) : (val16 s).toNat = msbVal s := by
  rw [val16, BitVec.toNat_ofNat]
  exact Nat.mod_eq_of_lt ((msbVal_lt s).trans_le (Nat.pow_le_pow_right (by decide) hlen))

theorem val16_getLsbD (s t : BitSeq) (b : Bool) (hlen : t.length < 16) :
    (val16 (s ++ b :: t)).getLsbD t.length = b := by
  rw [val16, BitVec.getLsbD_ofNat, testBit_msbVal, decide_eq_true hlen, Bool.true_and]

/-- Only the last 16 bits count. -/
theorem val16_append {s t : BitSeq} (hlen : t.length = 16) : val16 (s ++ t) = val16 t := by
  apply BitVec.eq_of_toNat_eq
  rw [val16, val16, BitVec.toNat_ofNat, BitVec.toNat_ofNat, msbVal_append, hlen]
  omega

theorem seqF_val16_append (s t : BitSeq) (hlen : t.length ≤ 16) : seqF t.length (val16 (s ++ t)) = t := by
  induction t generalizing s with
  | nil => rfl
  | cons b t ih =>
    rw [List.length_cons] at hlen ⊢
    rw [seqF, val16_getLsbD s t b (by omega), List.append_cons, ih _ (by omega)]

theorem seqF_val16 {c : BitSeq} (hlen : c.length ≤ 16) : seqF c.length (val16 c) = c :=
  seqF_val16_append [] c hlen

/-- A chunk of a cut is the operand of a well-formed command (30_encoding.md R51). -/
theorem feedOperands_val16 {c : BitSeq} (hpos : 1 ≤ c.length) (hle : c.length ≤ 16) :
    FeedOperands c.length (val16 c) := by
  refine ⟨hpos, hle, BitVec.eq_of_toNat_eq ?_⟩
  rw [BitVec.toNat_ushiftRight, val16_toNat hle, Nat.shiftRight_eq_div_pow, Nat.div_eq_of_lt (msbVal_lt c)]
  rfl

end Sys2Proof.Machine

/-! The frame disassembler after RX.CLR and any cut of a frame (10_state.md R24 to R26). The commands come down to
`fdRun` of the whole frame on a cleared channel, whose three elements are then found bit by bit. -/

namespace Sys2Proof.Machine

open Sys2Proof.Reference Sys2Proof.Claims

theorem transcript_cons_fst {w : Word} {s t : State} (haccept : acceptWord w s = .next t) (ws : List Word) :
    (transcript (w :: ws) s).1 = (transcript ws t).1 := by
  rw [transcript, haccept]

/-- FD.FEED of a chunk pushes the chunk (42_frame.md R95). -/
theorem acceptWord_fdFeed {c : BitSeq} {s : State} (hpos : 1 ≤ c.length) (hle : c.length ≤ 16)
    (hdone : s.done = false) :
    acceptWord (encode (Asm.feedSeq .fdFeed c)) s = .next ((fdRun c s).respond .ok (fdRun c s).fcnt) := by
  have hdecode := decode_encode (i := Asm.feedSeq .fdFeed c) (feedOperands_val16 hpos hle)
  rw [acceptWord_command _ s _ hdecode, Asm.feedSeq, exec_fdFeed_open _ _ s hdone, seqF_val16 hle]

/-- Whatever the cut, the chunks push their sequence into an open channel. -/
theorem transcript_fdFeeds {cs : List BitSeq} {s : State} (hcut : IsCut cs) (hdone : s.done = false) :
    ∃ c v, (transcript (feedWords .fdFeed cs) s).1 = (fdRun cs.flatten s).respond c v := by
  induction cs generalizing s with
  | nil => exact ⟨s.rcode, s.rdata, rfl⟩
  | cons c cs ih =>
    obtain ⟨⟨hpos, hle⟩, hcut'⟩ := List.forall_mem_cons.mp hcut
    obtain ⟨-, -, -, -, -, -, -, -, hdone', -⟩ := fdRun_frame c s
    have hopen : ((fdRun c s).respond .ok (fdRun c s).fcnt).done = false := hdone'.trans hdone
    obtain ⟨code, v, h⟩ := ih hcut' hopen
    refine ⟨code, v, ?_⟩
    rw [feedWords, List.map_cons, transcript_cons_fst (acceptWord_fdFeed hpos hle hdone)]
    rw [feedWords] at h
    rw [h, fdRun_respond, State.respond_respond, List.flatten_cons, fdRun_append]

theorem transcript_rxClr_fdFeeds {cs : List BitSeq} (hcut : IsCut cs) (s : State) :
    ∃ c v, (transcript (encode .rxClr :: feedWords .fdFeed cs) s).1 = (fdRun cs.flatten s.clearRx).respond c v := by
  have hclr : acceptWord (encode .rxClr) s = .next (s.clearRx.respond .ok 0#32) := by
    rw [acceptWord_command _ s .rxClr (decode_encode (i := .rxClr) trivial), exec_rxClr]
  have hopen : (s.clearRx.respond .ok 0#32).done = false := rfl
  obtain ⟨c, v, h⟩ := transcript_fdFeeds hcut hopen
  refine ⟨c, v, ?_⟩
  rw [transcript_cons_fst hclr, h, fdRun_respond, State.respond_respond]

/-- Pushing one more bit after others. -/
theorem fdRun_append_singleton (f : BitSeq) (b : Bool) (s : State) : fdRun (f ++ [b]) s = fdPush b (fdRun f s) := by
  rw [fdRun_append, fdRun, fdRun]

/-- A shift of the delay line appends its bit to the sequence it holds. -/
theorem val16_append_singleton (f : BitSeq) (b : Bool) :
    (val16 f <<< 1) ||| (BitVec.ofBool b).setWidth 16 = val16 (f ++ [b]) := by
  have hbit : ((BitVec.ofBool b).setWidth 16).toNat = b.toNat := by cases b <;> rfl
  have hlt : b.toNat < 2 ^ 1 := by cases b <;> decide
  have hshift : (val16 f <<< 1).toNat = (msbVal f % 2 ^ 15) <<< 1 := by
    rw [BitVec.toNat_shiftLeft, val16, BitVec.toNat_ofNat, Nat.shiftLeft_eq, Nat.shiftLeft_eq]
    omega
  apply BitVec.eq_of_toNat_eq
  rw [BitVec.toNat_or, hbit, hshift, ← Nat.shiftLeft_add_eq_or_of_lt hlt, Nat.shiftLeft_eq, val16, BitVec.toNat_ofNat,
    msbVal_append_singleton]
  omega

/-- TAIL is the value of the frame, of which 16 bits fit. -/
theorem fdRun_clearRx_tail (f : BitSeq) (s : State) : (fdRun f s.clearRx).tail = val16 f := by
  induction f using List.reverseRecOn with
  | nil => rfl
  | append_singleton f b ih => rw [fdRun_append_singleton, fdPush_tail, ih, val16_append_singleton]

theorem saturated_toNat (n : Nat) : (saturated n).toNat = min n 4294967295 := by
  rw [saturated, BitVec.toNat_ofNat]
  omega

theorem satinc_saturated (n : Nat) : satinc (saturated n) = saturated (n + 1) := by
  apply BitVec.eq_of_toNat_eq
  rw [satinc_toNat, saturated_toNat, saturated_toNat]
  omega

theorem fdRun_clearRx_fcnt (f : BitSeq) (s : State) : (fdRun f s.clearRx).fcnt = saturated f.length := by
  induction f using List.reverseRecOn with
  | nil => rfl
  | append_singleton f b ih =>
    rw [fdRun_append_singleton, fdPush_fcnt, ih, satinc_saturated, List.length_append, List.length_singleton]

/-- A frame that fills the delay line, split at the oldest bit in it. -/
theorem exists_split_at_oldest {f : BitSeq} (hfull : 16 ≤ f.length) :
    ∃ p a q, f = p ++ a :: q ∧ q.length = 15 := by
  have hlt : f.length - 16 < f.length := by omega
  refine ⟨f.take (f.length - 16), f[f.length - 16], f.drop (f.length - 16 + 1), ?_, ?_⟩
  · rw [List.getElem_cons_drop, List.take_append_drop]
  · rw [List.length_drop]
    omega

/-- RXCRC takes a bit only when it leaves the full delay line (42_frame.md R94). -/
theorem fdRun_clearRx_rxcrc (f : BitSeq) (s : State) :
    (fdRun f s.clearRx).rxcrc = crc16 (f.take (f.length - 16)) := by
  induction f using List.reverseRecOn with
  | nil => rfl
  | append_singleton f b ih =>
    have hfull : 16#32 ≤ saturated f.length ↔ 16 ≤ f.length := by
      rw [BitVec.le_def, saturated_toNat]
      simp only [BitVec.toNat_ofNat]
      omega
    rw [fdRun_append_singleton, fdPush_rxcrc, fdRun_clearRx_fcnt, fdRun_clearRx_tail, ih, List.length_append,
      List.length_singleton]
    by_cases hlen : 16 ≤ f.length
    · rw [if_pos (hfull.mpr hlen)]
      obtain ⟨p, a, q, rfl, hq⟩ := exists_split_at_oldest hlen
      have hoff : (p ++ a :: q).length - 16 = p.length := by simp [hq]
      have hbit : (val16 (p ++ a :: q)).getLsbD 15 = a := hq ▸ val16_getLsbD p q a (by omega)
      have htake : (p ++ a :: q ++ [b]).take (p.length + 1) = p ++ [a] := by simp [List.take_append]
      rw [hbit, Nat.sub_add_comm hlen, hoff, htake, List.take_left' rfl, crc16, crc16, crcRun_append]
      rfl
    · rw [if_neg (hfull.not.mpr hlen)]
      have hzero : f.length - 16 = 0 := by omega
      have hzero' : f.length + 1 - 16 = 0 := by omega
      rw [hzero, hzero', List.take_zero, List.take_zero]

end Sys2Proof.Machine

namespace Sys2Proof.Claims

open Sys2Proof.Machine Sys2Proof.Reference

/-- Settles O50: after RX.CLR the chunks push the frame, and TAIL, RXCRC and FCNT are read off `fdRun` of it. -/
theorem disassemblerSplitsTheFrame : Obligations.DisassemblerSplitsTheFrame := by
  unfold Obligations.DisassemblerSplitsTheFrame
  intro cs s hcut f t
  obtain ⟨c, v, ht⟩ := transcript_rxClr_fdFeeds hcut s
  have htail : t.tail = val16 f :=
    (congrArg State.tail ht).trans (fdRun_clearRx_tail f s)
  have hrxcrc : t.rxcrc = crc16 (f.take (f.length - 16)) :=
    (congrArg State.rxcrc ht).trans (fdRun_clearRx_rxcrc f s)
  have hfcnt : t.fcnt = saturated f.length :=
    (congrArg State.fcnt ht).trans (fdRun_clearRx_fcnt f s)
  refine ⟨fun hlen => ?_, fun hlen => ?_, hrxcrc, hfcnt, ?_⟩
  · have hlast : (f.drop (f.length - 16)).length = 16 := by rw [List.length_drop]; omega
    rw [htail, ← val16_append (s := f.take (f.length - 16)) hlast, List.take_append_drop]
  · rw [htail, val16_toNat hlen.le]
  · rw [hfcnt, saturated_toNat]
    omega

end Sys2Proof.Claims

/-! The host's later moves make no difference to a command (log entry 1): whatever stands on the port, a word has the
same effect and response, and leaves the port as it is. -/

namespace Sys2Proof.Machine

/-- A change of elements that the bit steps of the feeds neither read nor write. -/
structure FeedsCommute (g : State → State) : Prop where
  push : ∀ f s, fdPush f (g s) = g (fdPush f s)
  bit : ∀ e s, mdStep e (g s) = (g (mdStep e s).1, (mdStep e s).2)

theorem FeedsCommute.fdRun_comm {g : State → State} (hg : FeedsCommute g) (fs : BitSeq) (s : State) :
    fdRun fs (g s) = g (fdRun fs s) := by
  induction fs generalizing s with
  | nil => rfl
  | cons f fs ih => rw [fdRun, hg.push, ih, fdRun]

theorem FeedsCommute.mdRun_comm {g : State → State} (hg : FeedsCommute g) (es : BitSeq) (s : State) :
    mdRun es (g s) = (g (mdRun es s).1, (mdRun es s).2) := by
  induction es generalizing s with
  | nil => rfl
  | cons e es ih =>
    rw [mdRun_cons, mdRun_cons, hg.bit]
    cases (mdStep e s).2 with
    | none => exact ih _
    | some b =>
      dsimp only
      rw [hg.push, ih]

/-- The state with other moves of the host still to come. -/
def State.withPort (moves : List HostMove) (s : State) : State := { s with port := moves }

theorem feedsCommute_withPort (moves : List HostMove) : FeedsCommute (State.withPort moves) where
  push _ _ := rfl
  bit e s := by
    obtain ⟨hhv, h⟩ | ⟨hhv, hev, h⟩ | ⟨hhv, hev, he, h⟩ | ⟨hhv, hev, he, h⟩ := mdStep_cases e s <;> rw [h]
    · simp [mdStep, hhv, State.withPort]
    · simp [mdStep, hhv, hev, State.withPort]
    · cases hh : s.h <;> simp [mdStep, hhv, hev, hh, he, State.withPort]
    · cases hh : s.h <;> simp [mdStep, hhv, hev, hh, he, State.withPort]

theorem State.endRx_of_done {s : State} (hdone : s.done = true) : s.endRx = s := by
  rw [State.endRx, if_neg (by simp [hdone])]

theorem State.endRx_of_open {s : State} (hdone : s.done = false) :
    s.endRx = { s with verd := s.verdict, done := true } := by
  rw [State.endRx, if_pos hdone]

theorem State.endRx_withPort (moves : List HostMove) (s : State) :
    (s.withPort moves).endRx = s.endRx.withPort moves := by
  cases hdone : s.done with
  | true => rw [State.endRx_of_done hdone, State.endRx_of_done (s := s.withPort moves) hdone]
  | false => rw [State.endRx_of_open hdone, State.endRx_of_open (s := s.withPort moves) hdone]; rfl

/-- A command runs the same whatever moves the host has still to make. -/
theorem exec_withPort {i : Instr} {s t : State} (hexec : exec i s = .next t) (moves : List HostMove) :
    exec i (s.withPort moves) = .next (t.withPort moves) := by
  have hcomm := feedsCommute_withPort moves
  cases i with
  | nop | crcClr | crcFeed | menc | rxClr | srst => cases hexec; rfl
  | rd r => cases hexec; cases r <;> rfl
  | rxEnd => cases hexec; rw [exec_rxEnd, State.endRx_withPort]; rfl
  | faTail =>
    cases hcne : s.cne with
    | true => rw [exec_faTail_ok s hcne] at hexec; cases hexec; exact exec_faTail_ok (s.withPort moves) hcne
    | false => rw [exec_faTail_empty s hcne] at hexec; cases hexec; exact exec_faTail_empty (s.withPort moves) hcne
  | mdFeed n d =>
    cases hdone : s.done with
    | true =>
      rw [exec_mdFeed_closed n d s hdone] at hexec
      cases hexec
      exact exec_mdFeed_closed n d (s.withPort moves) hdone
    | false =>
      rw [exec_mdFeed_open n d s hdone] at hexec
      cases hexec
      rw [exec_mdFeed_open n d (s.withPort moves) hdone, hcomm.mdRun_comm]
      rfl
  | fdFeed n d =>
    cases hdone : s.done with
    | true =>
      rw [exec_fdFeed_closed n d s hdone] at hexec
      cases hexec
      exact exec_fdFeed_closed n d (s.withPort moves) hdone
    | false =>
      rw [exec_fdFeed_open n d s hdone] at hexec
      cases hexec
      rw [exec_fdFeed_open n d (s.withPort moves) hdone, hcomm.fdRun_comm]
      rfl

theorem acceptWord_withPort {w : Word} {s t : State} (haccept : acceptWord w s = .next t) (moves : List HostMove) :
    acceptWord w (s.withPort moves) = .next (t.withPort moves) := by
  cases hdecode : decode w with
  | ok i =>
    rw [acceptWord_command w s i hdecode] at haccept
    rw [acceptWord_command w _ i hdecode, exec_withPort haccept moves]
  | error e =>
    rw [acceptWord_illegal w s e hdecode] at haccept
    cases haccept
    exact acceptWord_illegal w _ e hdecode

/-- Every word completes (43_control.md R109). -/
theorem exists_acceptWord_eq_next (w : Word) (s : State) : ∃ t, acceptWord w s = .next t := by
  cases hdecode : decode w with
  | ok i =>
    obtain ⟨c, v, h⟩ := exec_eq_effect_respond i s
    exact ⟨_, (acceptWord_command w s i hdecode).trans h⟩
  | error e => exact ⟨_, acceptWord_illegal w s e hdecode⟩

/-- A run of one more step goes on from the state that the step answers. -/
theorem run_succ {s t : State} (hstep : step s = .next t) (n : Nat) :
    Host.Core.run Sys2Proof.core (n + 1) s = Host.Core.run Sys2Proof.core n t := by
  have hcore : Sys2Proof.core.step s = .next t := hstep
  simp only [Host.Core.run, hcore]

end Sys2Proof.Machine

namespace Sys2Proof.Claims

open Sys2Proof.Machine

/-- Settles O8, by induction on the words: each step takes one word off the port, and what is left there makes no
difference to it. -/
theorem transcriptIsTheRun : Obligations.TranscriptIsTheRun := by
  unfold Obligations.TranscriptIsTheRun
  intro ws s rest
  induction ws generalizing s with
  | nil => rfl
  | cons w ws ih =>
    obtain ⟨t, haccept⟩ := exists_acceptWord_eq_next w s
    have hstep : step { s with port := .command w :: (ws.map HostMove.command ++ rest) } =
        .next { t with port := ws.map HostMove.command ++ rest } :=
      (step_command rfl).trans (acceptWord_withPort haccept _)
    calc
      Host.Core.run Sys2Proof.core (ws.length + 1) { s with port := .command w :: (ws.map HostMove.command ++ rest) }
      _ = Host.Core.run Sys2Proof.core ws.length { t with port := ws.map HostMove.command ++ rest } := run_succ hstep _
      _ = .next (transcript ws { t with port := rest }).1 := ih t
      _ = .next (transcript (w :: ws) { s with port := rest }).1 :=
        congrArg Host.Outcome.next (transcript_cons_fst (acceptWord_withPort haccept rest) ws).symm

/-- Settles O7: the step gives the word to the core, which runs the command it decodes to. -/
theorem stepRunsDecodedCommand : Obligations.StepRunsDecodedCommand := by
  unfold Obligations.StepRunsDecodedCommand
  intro s w rest i hport hdecode
  rw [step_command hport, acceptWord_command w _ i hdecode]

end Sys2Proof.Claims

/-! Repeating an idempotent command (20_memory.md R43). A command answers the same on its own effect, and the response
that stands between the two runs is not read. -/

namespace Sys2Proof.Machine

open Sys2Proof.Claims

/-- A clear leaves nothing for a second one to do, RX.END ends an ended sequence without effect, and the others have no
effect. -/
theorem exec_effect_of_isIdempotent {i : Instr} (hidem : isIdempotent i = true) (s : State) :
    exec i (s.effect i) = exec i s := by
  cases i with
  | crcFeed | mdFeed | fdFeed => cases hidem
  | nop | crcClr | faTail | menc | rxClr | rd | srst => rfl
  | rxEnd => rw [State.effect, exec_rxEnd, State.endRx_of_done s.endRx_done, exec_rxEnd]

theorem exec_again_of_isIdempotent {i : Instr} {s t : State} (hidem : isIdempotent i = true)
    (hexec : exec i s = .next t) : exec i t = .next t := by
  obtain ⟨c, v, rfl⟩ := eq_effect_respond_of_exec hexec
  rw [exec_respond, exec_effect_of_isIdempotent hidem, hexec]

/-- A command without an effect on `s` changes the response registers only. -/
theorem eq_answered_of_effect_eq {i : Instr} {s t : State} (heffect : s.effect i = s) (hexec : exec i s = .next t) :
    t = s.answered t.rcode t.rdata := by
  obtain ⟨c, v, rfl⟩ := eq_effect_respond_of_exec hexec
  rw [heffect]
  rfl

/-- RX.END writes DONE, VERD and the response only (42_frame.md R97). -/
theorem exec_rxEnd_frame {s t : State} (hexec : exec .rxEnd s = .next t) :
    t = { s with done := t.done, verd := t.verd, rcode := t.rcode, rdata := t.rdata } := by
  cases hexec
  cases hdone : s.done with
  | true => rw [State.endRx_of_done hdone]; rfl
  | false => rw [State.endRx_of_open hdone]; rfl

end Sys2Proof.Machine

namespace Sys2Proof.Claims

open Sys2Proof.Machine

/-- Settles O31: an idempotent command answers the same on its own effect; four commands have no effect at all, and
RX.END has none on an ended sequence. -/
theorem idempotentCommands : Obligations.IdempotentCommands := by
  unfold Obligations.IdempotentCommands
  refine ⟨fun i s t => exec_again_of_isIdempotent, fun s t n d r hexec => ?_, fun s t hexec => ?_⟩
  · obtain h | h | h | h := hexec <;> exact eq_answered_of_effect_eq rfl h
  · exact ⟨exec_rxEnd_frame hexec, fun hdone => eq_answered_of_effect_eq (i := .rxEnd) (State.endRx_of_done hdone) hexec⟩

end Sys2Proof.Claims

/-! The legal words by their fields (30_encoding.md R50 to R54): for each format, its opcodes and, for each N, how many
values D may have. The legality check, the decoder and the reserved spaces are each compared with this, and the legal
words are counted by it. -/

namespace Sys2Proof

open Sys2Proof.Claims

/-- The opcodes of a format (30_encoding.md R53). -/
def Format.opcodes : Format → List Nat
  | .z => [0x00, 0x01, 0x03, 0x08, 0x0B, 0x1F]
  | .f => [0x02, 0x04, 0x09, 0x0A]
  | .r => [0x10]

/-- The number of values that D may have with `N = n`: D is then any number below it (30_encoding.md R50 to R52). -/
def Format.dataCount : Format → Nat → Nat
  | .z, n => if n = 0 then 1 else 0
  | .f, n => if 1 ≤ n ∧ n ≤ 16 then 2 ^ n else 0
  | .r, n => if n = 0 then 9 else 0

/-- The opcode of a word is one of the format's. -/
abbrev Format.HasOpcode (fmt : Format) (w : Word) : Prop := (opField w).toNat ∈ fmt.opcodes

/-- RSV, N and D of a word are those of the format (30_encoding.md R50 to R52). -/
abbrev Format.AllowsOperands (fmt : Format) (w : Word) : Prop :=
  rsvField w = 0#3 ∧ (dField w).toNat < fmt.dataCount (nField w).toNat

theorem lt_dataCount_z {n d : Nat} : d < Format.z.dataCount n ↔ n = 0 ∧ d = 0 := by
  rw [Format.dataCount]
  split_ifs <;> omega

theorem lt_dataCount_f {n d : Nat} : d < Format.f.dataCount n ↔ 1 ≤ n ∧ n ≤ 16 ∧ d < 2 ^ n := by
  rw [Format.dataCount]
  split_ifs <;> omega

theorem lt_dataCount_r {n d : Nat} : d < Format.r.dataCount n ↔ n = 0 ∧ d ≤ 8 := by
  rw [Format.dataCount]
  split_ifs <;> omega

theorem ushiftRight_eq_zero_iff (d : Half) (n : Nat) : d >>> n = 0#16 ↔ d.toNat < 2 ^ n := by
  rw [← BitVec.toNat_inj, BitVec.toNat_ushiftRight, Nat.shiftRight_eq_div_pow, BitVec.toNat_ofNat, Nat.zero_mod,
    Nat.div_eq_zero_iff_lt (by positivity)]

theorem feedOperands_iff {n : Nat} {d : Half} : FeedOperands n d ↔ d.toNat < Format.f.dataCount n := by
  rw [FeedOperands, ushiftRight_eq_zero_iff, lt_dataCount_f]

/-! ## The legality check and the reserved spaces -/

/-- No opcode has two formats. -/
theorem not_mem_opcodes_of_ne {fmt fmt' : Format} {op : Nat} (hop : op ∈ fmt.opcodes) (hne : fmt' ≠ fmt) :
    op ∉ fmt'.opcodes := by
  have hdisjoint : ∀ op ∈ fmt.opcodes, op ∉ fmt'.opcodes := by
    revert hne
    cases fmt <;> cases fmt' <;> decide
  exact hdisjoint op hop

theorem operands_z_iff (n : Nat) (d : Half) : n = 0 ∧ d = 0#16 ↔ d.toNat < Format.z.dataCount n := by
  rw [lt_dataCount_z, ← BitVec.toNat_inj]
  rfl

theorem operands_f_iff (n : Nat) (d : Half) :
    1 ≤ n ∧ n ≤ 16 ∧ (n = 16 ∨ d >>> n = 0#16) ↔ d.toNat < Format.f.dataCount n := by
  have hfull : n = 16 → d >>> n = 0#16 := fun h => (ushiftRight_eq_zero_iff d n).mpr (h ▸ d.isLt)
  rw [← feedOperands_iff, or_iff_right_of_imp hfull]

theorem operands_r_iff (n : Nat) (d : Half) :
    n = 0 ∧ d >>> 5 = 0#16 ∧ (d.setWidth 5).toNat ≤ 8 ↔ d.toNat < Format.r.dataCount n := by
  rw [lt_dataCount_r, ushiftRight_eq_zero_iff, BitVec.toNat_setWidth]
  omega

/-- The check of R54 over the formats. -/
theorem legal_eq (w : Word) : legal w =
    if rsvField w ≠ 0#3 then false
    else if Format.z.HasOpcode w then decide ((dField w).toNat < Format.z.dataCount (nField w).toNat)
    else if Format.f.HasOpcode w then decide ((dField w).toNat < Format.f.dataCount (nField w).toNat)
    else if Format.r.HasOpcode w then decide ((dField w).toNat < Format.r.dataCount (nField w).toNat)
    else false := by
  simp only [← operands_z_iff, ← operands_f_iff, ← operands_r_iff, Format.HasOpcode, Format.opcodes, List.mem_singleton]
  rfl

/-- The opcode of a word selects the case of the check. -/
theorem legal_iff_of_hasOpcode {fmt : Format} {w : Word} (hop : fmt.HasOpcode w) :
    legal w = true ↔ fmt.AllowsOperands w := by
  rw [legal_eq, Format.AllowsOperands]
  by_cases hrsv : rsvField w = 0#3
  case neg => simp [hrsv]
  have hother : ∀ fmt' ≠ fmt, ¬ fmt'.HasOpcode w := fun _ => not_mem_opcodes_of_ne hop
  cases fmt with
  | z => simp [hrsv, hop]
  | f => simp [hrsv, hop, hother .z]
  | r => simp [hrsv, hop, hother .z, hother .f]

theorem not_legal_of_not_hasOpcode {w : Word} (hop : ∀ fmt : Format, ¬ fmt.HasOpcode w) : ¬ legal w = true := by
  simp [legal_eq, hop]

theorem legal_iff_exists_format (w : Word) :
    legal w = true ↔ ∃ fmt : Format, fmt.HasOpcode w ∧ fmt.AllowsOperands w := by
  constructor
  · intro hlegal
    by_contra! hnone
    by_cases hop : ∃ fmt : Format, fmt.HasOpcode w
    · obtain ⟨fmt, hop⟩ := hop
      exact hnone fmt hop ((legal_iff_of_hasOpcode hop).mp hlegal)
    · exact not_legal_of_not_hasOpcode (not_exists.mp hop) hlegal
  · rintro ⟨fmt, hop, hoperands⟩
    exact (legal_iff_of_hasOpcode hop).mpr hoperands

/-- A bit of D at or above N is one exactly when D has more than N bits. -/
theorem exists_high_bit_iff (d : Half) (n : Nat) : (∃ j, n ≤ j ∧ d.getLsbD j = true) ↔ 2 ^ n ≤ d.toNat := by
  constructor
  · rintro ⟨j, hj, hbit⟩
    exact (Nat.pow_le_pow_right (by decide) hj).trans (Nat.ge_two_pow_of_testBit hbit)
  · exact Nat.exists_ge_and_testBit_of_ge_two_pow

/-- The reserved opcodes of R56 are those of no format. -/
theorem reserved_opcode_iff (op : Nat) :
    (5 ≤ op ∧ op ≤ 7) ∨ (0x0C ≤ op ∧ op ≤ 0x0F) ∨ (0x11 ≤ op ∧ op ≤ 0x1E) ∨ 0x20 ≤ op ↔
      op ∉ Format.z.opcodes ∧ op ∉ Format.f.opcodes ∧ op ∉ Format.r.opcodes := by
  simp only [Format.opcodes, List.mem_cons, List.not_mem_nil, or_false]
  omega

/-- The reserved spaces of R56 over the formats, with the unused bits of D as a bound on it. -/
theorem reserved_iff (w : Word) : Reserved w ↔
    (¬ Format.z.HasOpcode w ∧ ¬ Format.f.HasOpcode w ∧ ¬ Format.r.HasOpcode w) ∨ rsvField w ≠ 0#3 ∨
      ((Format.z.HasOpcode w ∨ Format.r.HasOpcode w) ∧ (nField w).toNat ≠ 0) ∨
      (Format.f.HasOpcode w ∧ ((nField w).toNat = 0 ∨ 17 ≤ (nField w).toNat)) ∨
      (Format.z.HasOpcode w ∧ dField w ≠ 0#16) ∨
      (Format.f.HasOpcode w ∧ 2 ^ (nField w).toNat ≤ (dField w).toNat) ∨
      (Format.r.HasOpcode w ∧ 2 ^ 5 ≤ (dField w).toNat) ∨
      (Format.r.HasOpcode w ∧ 9 ≤ (dField w).toNat % 32) := by
  rw [← reserved_opcode_iff, or_assoc, or_assoc, or_assoc]
  simp only [Reserved, Format.HasOpcode, Format.opcodes, List.mem_singleton, exists_high_bit_iff]

/-- Among the words of a format's opcode, the reserved ones are those with other operands (30_encoding.md R56). -/
theorem reserved_iff_of_hasOpcode {fmt : Format} {w : Word} (hop : fmt.HasOpcode w) :
    Reserved w ↔ ¬ fmt.AllowsOperands w := by
  have hother : ∀ fmt' ≠ fmt, ¬ fmt'.HasOpcode w := fun _ => not_mem_opcodes_of_ne hop
  cases fmt with
  | z =>
    rw [reserved_iff, Format.AllowsOperands, ← operands_z_iff]
    have hf := hother .f (by decide)
    have hr := hother .r (by decide)
    tauto
  | f =>
    rw [reserved_iff, Format.AllowsOperands, lt_dataCount_f]
    have hz := hother .z (by decide)
    have hr := hother .r (by decide)
    grind
  | r =>
    rw [reserved_iff, Format.AllowsOperands, lt_dataCount_r]
    have hz := hother .z (by decide)
    have hf := hother .f (by decide)
    grind

theorem reserved_of_not_hasOpcode {w : Word} (hop : ∀ fmt : Format, ¬ fmt.HasOpcode w) : Reserved w :=
  (reserved_iff w).mpr (.inl ⟨hop .z, hop .f, hop .r⟩)

theorem not_legal_iff_reserved (w : Word) : ¬ legal w = true ↔ Reserved w := by
  by_cases hop : ∃ fmt : Format, fmt.HasOpcode w
  · obtain ⟨fmt, hop⟩ := hop
    rw [legal_iff_of_hasOpcode hop, reserved_iff_of_hasOpcode hop]
  · exact iff_of_true (not_legal_of_not_hasOpcode (not_exists.mp hop)) (reserved_of_not_hasOpcode (not_exists.mp hop))

/-! ## Commands and their words -/

theorem encode_fields (i : Instr) : Laws.WordShape.Statement i :=
  Laws.WordShape.fields_of_append (opcode i) (countOf i) (dataOf i)

theorem opcode_mem_opcodes (i : Instr) : (opcode i).toNat ∈ i.format.opcodes := by
  cases i <;> simp [opcode, Instr.format, Format.opcodes]

/-- Operands in range fit the fields N and D. -/
theorem toNat_lt_dataCount_of_feedOperands {n : Nat} {d : Half} (hops : FeedOperands n d) :
    d.toNat < Format.f.dataCount (BitVec.ofNat 5 n).toNat := by
  have hle := hops.2.1
  rw [BitVec.toNat_ofNat, Nat.mod_eq_of_lt (by omega)]
  exact feedOperands_iff.mp hops

theorem dataOf_lt_dataCount {i : Instr} (hwf : i.WellFormed) :
    (dataOf i).toNat < i.format.dataCount (countOf i).toNat := by
  cases i with
  | crcFeed n d | menc n d | mdFeed n d | fdFeed n d => exact toNat_lt_dataCount_of_feedOperands hwf
  | rd r => cases r <;> decide
  | nop | crcClr | faTail | rxClr | rxEnd | srst => decide

/-- The word of a well-formed command is one of its format (30_encoding.md R50 to R53). -/
theorem hasOpcode_and_allowsOperands_encode {i : Instr} (hwf : i.WellFormed) :
    i.format.HasOpcode (encode i) ∧ i.format.AllowsOperands (encode i) := by
  obtain ⟨hop, hrsv, hcount, hdata⟩ := encode_fields i
  rw [Format.HasOpcode, Format.AllowsOperands, hop, hrsv, hcount, hdata]
  exact ⟨opcode_mem_opcodes i, rfl, dataOf_lt_dataCount hwf⟩

theorem exists_reg_of_lt {d : Half} (hd : d.toNat < 9) : ∃ r, indexOfReg r = d := by
  have hsome : ∀ k < 9, (regOfIndex k).isSome = true := by decide
  obtain ⟨r, hr⟩ := Option.isSome_iff_exists.mp (hsome d.toNat hd)
  exact ⟨r, BitVec.eq_of_toNat_eq (indexOfReg_of_regOfIndex hr)⟩

/-- Every opcode and operands of a format have their command (30_encoding.md R53). -/
theorem exists_instr_of_mem_opcodes {fmt : Format} {op : Nat} {n : BitVec 5} {d : Half} (hop : op ∈ fmt.opcodes)
    (hd : d.toNat < fmt.dataCount n.toNat) :
    ∃ i : Instr, i.WellFormed ∧ i.format = fmt ∧ (opcode i).toNat = op ∧ countOf i = n ∧ dataOf i = d := by
  cases fmt with
  | z =>
    obtain ⟨hn, rfl⟩ := (operands_z_iff _ _).mpr hd
    obtain rfl : n = 0#5 := BitVec.eq_of_toNat_eq hn
    simp only [Format.opcodes, List.mem_cons, List.not_mem_nil, or_false] at hop
    obtain rfl | rfl | rfl | rfl | rfl | rfl := hop
    · exact ⟨.nop, trivial, rfl, rfl, rfl, rfl⟩
    · exact ⟨.crcClr, trivial, rfl, rfl, rfl, rfl⟩
    · exact ⟨.faTail, trivial, rfl, rfl, rfl, rfl⟩
    · exact ⟨.rxClr, trivial, rfl, rfl, rfl, rfl⟩
    · exact ⟨.rxEnd, trivial, rfl, rfl, rfl, rfl⟩
    · exact ⟨.srst, trivial, rfl, rfl, rfl, rfl⟩
  | f =>
    have hwf := feedOperands_iff.mpr hd
    have hn := BitVec.ofNat_toNat 5 n
    simp only [Format.opcodes, List.mem_cons, List.not_mem_nil, or_false] at hop
    obtain rfl | rfl | rfl | rfl := hop
    · exact ⟨.crcFeed n.toNat d, hwf, rfl, rfl, hn, rfl⟩
    · exact ⟨.menc n.toNat d, hwf, rfl, rfl, hn, rfl⟩
    · exact ⟨.mdFeed n.toNat d, hwf, rfl, rfl, hn, rfl⟩
    · exact ⟨.fdFeed n.toNat d, hwf, rfl, rfl, hn, rfl⟩
  | r =>
    obtain ⟨hn, hle⟩ := lt_dataCount_r.mp hd
    obtain rfl : n = 0#5 := BitVec.eq_of_toNat_eq hn
    obtain ⟨r, hr⟩ := exists_reg_of_lt (Nat.lt_succ_of_le hle)
    obtain rfl := List.mem_singleton.mp hop
    exact ⟨.rd r, trivial, rfl, rfl, rfl, hr⟩

/-- Every word of a format is the word of a well-formed command of the format. -/
theorem exists_encode_eq {fmt : Format} {w : Word} (hop : fmt.HasOpcode w) (hoperands : fmt.AllowsOperands w) :
    ∃ i : Instr, i.WellFormed ∧ i.format = fmt ∧ encode i = w := by
  obtain ⟨i, hwf, hfmt, hopcode, hcount, hdata⟩ := exists_instr_of_mem_opcodes hop hoperands.2
  exact ⟨i, hwf, hfmt, encode_eq_of_fields hopcode hoperands.1 hcount hdata⟩

/-! ## The decoder -/

theorem feedOperands_of_decodeF {mk : Nat → Half → Instr} {j : Instr} {w : Word} (h : decodeF mk w = .ok j) :
    FeedOperands (nField w).toNat (dField w) := by
  unfold decodeF at h
  dsimp only at h
  split_ifs at h with _ hn hd
  exact ⟨by omega, by omega, not_not.mp hd⟩

/-- The decoder gives well-formed commands only (30_encoding.md R50 to R52). -/
theorem wellFormed_of_decode {w : Word} {i : Instr} (h : decode w = .ok i) : i.WellFormed := by
  unfold decode at h
  split at h
  case h_12 => cases h
  case h_10 =>
    obtain ⟨r, rfl, -⟩ := decodeR_eq_ok h
    trivial
  case h_3 | h_5 | h_7 | h_8 =>
    have hwf := feedOperands_of_decodeF h
    obtain ⟨rfl, -⟩ := decodeF_eq_ok h
    exact hwf
  all_goals
    obtain ⟨rfl, -⟩ := decodeZ_eq_ok h
    trivial

/-- The decoder inverts the encoder on well-formed commands, and does nothing else. -/
theorem decode_eq_ok_iff {w : Word} {i : Instr} : decode w = .ok i ↔ i.WellFormed ∧ encode i = w := by
  constructor
  · exact fun h => ⟨wellFormed_of_decode h, encode_of_decode h⟩
  · rintro ⟨hwf, rfl⟩
    exact decode_encode hwf

theorem formatOf_eq_some_iff {w : Word} {fmt : Format} :
    Machine.formatOf w = some fmt ↔ ∃ i, decode w = .ok i ∧ i.format = fmt := by
  cases hdecode : decode w <;> simp [Machine.formatOf, hdecode]

/-- The format of a word is read off its fields. -/
theorem formatOf_eq_some_iff_fields {w : Word} {fmt : Format} :
    Machine.formatOf w = some fmt ↔ fmt.HasOpcode w ∧ fmt.AllowsOperands w := by
  rw [formatOf_eq_some_iff]
  constructor
  · rintro ⟨i, hdecode, rfl⟩
    obtain ⟨hwf, rfl⟩ := decode_eq_ok_iff.mp hdecode
    exact hasOpcode_and_allowsOperands_encode hwf
  · rintro ⟨hop, hoperands⟩
    obtain ⟨i, hwf, hfmt, hencode⟩ := exists_encode_eq hop hoperands
    exact ⟨i, decode_eq_ok_iff.mpr ⟨hwf, hencode⟩, hfmt⟩

theorem legal_iff_exists_formatOf (w : Word) : legal w = true ↔ ∃ fmt, Machine.formatOf w = some fmt := by
  simp only [legal_iff_exists_format, formatOf_eq_some_iff_fields]

/-- The check of R54 and the decoder agree. -/
theorem legal_iff_exists_decode (w : Word) : legal w = true ↔ ∃ i, decode w = .ok i := by
  simp only [legal_iff_exists_formatOf, formatOf_eq_some_iff]
  exact ⟨fun ⟨_, i, h, _⟩ => ⟨i, h⟩, fun ⟨i, h⟩ => ⟨i.format, i, h, rfl⟩⟩

theorem not_legal_iff_exists_error (w : Word) : ¬ legal w = true ↔ ∃ e, decode w = .error e := by
  rw [legal_iff_exists_decode]
  cases decode w <;> simp

theorem exists_error_of_legal_eq_false {w : Word} (hlegal : legal w = false) : ∃ e, decode w = .error e :=
  (not_legal_iff_exists_error w).mp (Bool.eq_false_iff.mp hlegal)

/-! ## The number of legal words -/

theorem Format.opcodes_lt {fmt : Format} {op : Nat} (hop : op ∈ fmt.opcodes) : op < 256 := by
  have hall : ∀ op ∈ fmt.opcodes, op < 256 := by cases fmt <;> decide
  exact hall op hop

theorem Format.dataCount_le (fmt : Format) (n : Nat) : fmt.dataCount n ≤ 2 ^ 16 := by
  by_contra! h
  cases fmt with
  | z => have := lt_dataCount_z.mp h; omega
  | r => have := lt_dataCount_r.mp h; omega
  | f =>
    obtain ⟨-, hle, hlt⟩ := lt_dataCount_f.mp h
    exact absurd hlt (Nat.pow_le_pow_right (by decide) hle).not_gt

/-- OP, N and D of a word, as numbers. -/
def fieldsOf (w : Word) : Nat × Σ _ : Nat, Nat := ((opField w).toNat, ⟨(nField w).toNat, (dField w).toNat⟩)

/-- The word of three fields, with RSV 0 (30_encoding.md R49). -/
def wordOfFields (x : Nat × Σ _ : Nat, Nat) : Word :=
  BitVec.ofNat 8 x.1 ++ 0#3 ++ BitVec.ofNat 5 x.2.1 ++ BitVec.ofNat 16 x.2.2

/-- The fields that a word of the format may have: its opcode, and for each N the values of D. -/
def Format.fields (fmt : Format) : Finset (Nat × Σ _ : Nat, Nat) :=
  fmt.opcodes.toFinset ×ˢ (Finset.range 32).sigma fun n => Finset.range (fmt.dataCount n)

theorem Format.mem_fields {fmt : Format} {x : Nat × Σ _ : Nat, Nat} :
    x ∈ fmt.fields ↔ x.1 ∈ fmt.opcodes ∧ x.2.1 < 32 ∧ x.2.2 < fmt.dataCount x.2.1 := by
  simp [Format.fields]

theorem Format.card_fields (fmt : Format) :
    fmt.fields.card = fmt.opcodes.toFinset.card * ∑ n ∈ Finset.range 32, fmt.dataCount n := by
  simp [Format.fields]

theorem wordOfFields_fieldsOf {w : Word} (hrsv : rsvField w = 0#3) : wordOfFields (fieldsOf w) = w := by
  simp only [wordOfFields, fieldsOf, BitVec.ofNat_toNat, BitVec.setWidth_eq]
  rw [← hrsv, fields_append]

theorem rsvField_wordOfFields (x : Nat × Σ _ : Nat, Nat) : rsvField (wordOfFields x) = 0#3 :=
  (Laws.WordShape.fields_of_append _ _ _).2.1

theorem fieldsOf_wordOfFields {fmt : Format} {x : Nat × Σ _ : Nat, Nat} (hx : x ∈ fmt.fields) :
    fieldsOf (wordOfFields x) = x := by
  obtain ⟨hop, hn, hd⟩ := Format.mem_fields.mp hx
  obtain ⟨hopField, -, hnField, hdField⟩ :=
    Laws.WordShape.fields_of_append (BitVec.ofNat 8 x.1) (BitVec.ofNat 5 x.2.1) (BitVec.ofNat 16 x.2.2)
  rw [fieldsOf, wordOfFields, hopField, hnField, hdField, BitVec.toNat_ofNat, BitVec.toNat_ofNat, BitVec.toNat_ofNat,
    Nat.mod_eq_of_lt (Format.opcodes_lt hop), Nat.mod_eq_of_lt hn, Nat.mod_eq_of_lt (hd.trans_le (fmt.dataCount_le _))]

theorem formatOf_eq_some_iff_mem_fields {w : Word} {fmt : Format} :
    Machine.formatOf w = some fmt ↔ rsvField w = 0#3 ∧ fieldsOf w ∈ fmt.fields := by
  rw [formatOf_eq_some_iff_fields, Format.mem_fields]
  have hn : (nField w).toNat < 32 := (nField w).isLt
  exact ⟨fun ⟨hop, hrsv, hd⟩ => ⟨hrsv, hop, hn, hd⟩, fun ⟨hrsv, hop, _, hd⟩ => ⟨hop, hrsv, hd⟩⟩

/-- The words of a format are counted by their fields. -/
theorem card_formatOf (fmt : Format) :
    (Finset.univ.filter fun w : Word => Machine.formatOf w = some fmt).card =
      fmt.opcodes.toFinset.card * ∑ n ∈ Finset.range 32, fmt.dataCount n := by
  rw [← Format.card_fields]
  refine Finset.card_nbij' fieldsOf wordOfFields (fun w hw => ?_) (fun x hx => ?_) (fun w hw => ?_) (fun x hx => ?_)
  · exact (formatOf_eq_some_iff_mem_fields.mp (Finset.mem_filter.mp hw).2).2
  · refine Finset.mem_filter.mpr ⟨Finset.mem_univ _, formatOf_eq_some_iff_mem_fields.mpr ⟨rsvField_wordOfFields x, ?_⟩⟩
    rwa [fieldsOf_wordOfFields hx]
  · exact wordOfFields_fieldsOf (formatOf_eq_some_iff_mem_fields.mp (Finset.mem_filter.mp hw).2).1
  · exact fieldsOf_wordOfFields hx

/-- The three formats. -/
def Format.all : Finset Format := {.z, .f, .r}

@[simp] theorem Format.mem_all (fmt : Format) : fmt ∈ Format.all := by
  cases fmt <;> decide

/-- Every legal word has one of the three formats, and only one. -/
theorem card_legal : (Finset.univ.filter fun w : Word => legal w = true).card =
    ∑ fmt ∈ Format.all, (Finset.univ.filter fun w : Word => Machine.formatOf w = some fmt).card := by
  have hunion : (Finset.univ.filter fun w : Word => legal w = true) =
      Format.all.biUnion fun fmt => Finset.univ.filter fun w : Word => Machine.formatOf w = some fmt := by
    ext w
    simp [legal_iff_exists_formatOf]
  rw [hunion, Finset.card_biUnion]
  intro fmt _ fmt' _ hne
  exact Finset.disjoint_filter.mpr fun w _ hw hw' => hne (Option.some_inj.mp (hw.symm.trans hw'))

end Sys2Proof

namespace Sys2Proof.Claims

open Sys2Proof.Machine

/-- Settles O1 by the decoder's law: the opcode of the command's word selects its format, which gives N and D back. -/
theorem decodeEncodeRoundTrip : Obligations.DecodeEncodeRoundTrip := by
  unfold Obligations.DecodeEncodeRoundTrip
  exact fun i => decode_encode

/-- Settles O2: the check and the decoder accept the same words, and the word of the decoded command is the word itself. -/
theorem legalWordsDecode : Obligations.LegalWordsDecode := by
  unfold Obligations.LegalWordsDecode
  refine fun w => ⟨fun hlegal => ?_, fun hlegal => ?_⟩
  · obtain ⟨i, hdecode⟩ := (legal_iff_exists_decode w).mp hlegal
    obtain ⟨hwf, hencode⟩ := decode_eq_ok_iff.mp hdecode
    exact ⟨i, hdecode, hwf, hencode ▸ (encode_fields i).1.symm, hencode⟩
  · obtain ⟨e, hdecode⟩ := exists_error_of_legal_eq_false hlegal
    exact ⟨⟨e, hdecode⟩, fun s => acceptWord_illegal w s e hdecode⟩

/-- Settles O3: the encoder gives back the word, and the words of each format are counted by their fields. -/
theorem legalWordCounts : Obligations.LegalWordCounts := by
  unfold Obligations.LegalWordCounts
  refine ⟨fun w v i hw hv => (encode_of_decode hw).symm.trans (encode_of_decode hv), ?_, ?_, ?_, ?_⟩
  · exact (card_formatOf .z).trans (by decide)
  · exact (card_formatOf .f).trans (by decide)
  · exact (card_formatOf .r).trans (by decide)
  · simp only [card_legal, card_formatOf]
    decide

/-- Settles O5: both sides are the words that the check of R54 refuses, opcode by opcode. -/
theorem reservedWordsExactlyIllegal : Obligations.ReservedWordsExactlyIllegal := by
  unfold Obligations.ReservedWordsExactlyIllegal
  exact fun w => (not_legal_iff_exists_error w).symm.trans (not_legal_iff_reserved w)

/-- Settles O9: an illegal word does not decode, so it is only answered; and no later word sees the answer. -/
theorem illegalWordOnlyResponds : Obligations.IllegalWordOnlyResponds := by
  unfold Obligations.IllegalWordOnlyResponds
  intro s w rest hport hlegal
  obtain ⟨e, hdecode⟩ := exists_error_of_legal_eq_false hlegal
  constructor
  · rw [step_command hport, acceptWord_illegal w _ e hdecode]
    rfl
  · exact fun v => acceptWord_respond v .illegal 0#32 { s with port := rest }

/-- Settles O4: the decoder and the assembler, run on the spec's own words and lines. -/
theorem specWordsDecode : Obligations.SpecWordsDecode := by
  unfold Obligations.SpecWordsDecode
  decide

end Sys2Proof.Claims

/-! The chunks of a sequence (30_encoding.md R60): the first 16 bits, then the chunks of the rest. -/

namespace Sys2Proof.Machine

/-- Fuel beyond the length of the sequence is not used. -/
theorem chunksFuel_eq {f g : Nat} {s : BitSeq} (hf : s.length ≤ f) (hg : s.length ≤ g) :
    chunksFuel f s = chunksFuel g s := by
  induction f, s using chunksFuel.induct generalizing g with
  | case1 s =>
    obtain rfl := List.eq_nil_of_length_eq_zero (Nat.le_zero.mp hf)
    cases g <;> rfl
  | case2 => cases g <;> rfl
  | case3 f b s ih =>
    cases g with
    | zero => cases hg
    | succ g =>
      rw [List.length_cons] at hf hg
      rw [List.drop_succ_cons, List.length_drop] at ih
      rw [chunksFuel, chunksFuel, List.drop_succ_cons, ih (g := g) (by omega) (by omega)]

@[simp] theorem chunks_nil : chunks [] = [] := rfl

theorem chunks_of_ne_nil {s : BitSeq} (hs : s ≠ []) : chunks s = s.take 16 :: chunks (s.drop 16) := by
  cases s with
  | nil => exact absurd rfl hs
  | cons b s =>
    rw [chunks, List.length_cons, chunksFuel, chunks, chunksFuel_eq _ le_rfl]
    simp

/-- Induction along the cut: a sequence that is not empty is settled by what is left of it after its first chunk. -/
theorem chunks_induction {P : BitSeq → Prop} (nil : P []) (cut : ∀ s : BitSeq, s ≠ [] → P (s.drop 16) → P s)
    (s : BitSeq) : P s := by
  by_cases hs : s = []
  · exact hs ▸ nil
  · exact cut s hs (chunks_induction nil cut (s.drop 16))
termination_by s.length
decreasing_by
  have := List.length_pos_iff.mpr hs
  rw [List.length_drop]
  omega

theorem chunks_flatten (s : BitSeq) : (chunks s).flatten = s := by
  induction s using chunks_induction with
  | nil => rfl
  | cut s hs ih => rw [chunks_of_ne_nil hs, List.flatten_cons, ih, List.take_append_drop]

theorem chunks_isCut (s : BitSeq) : IsCut (chunks s) := by
  induction s using chunks_induction with
  | nil => simp [IsCut]
  | cut s hs ih =>
    have hpos := List.length_pos_iff.mpr hs
    rw [chunks_of_ne_nil hs, IsCut, List.forall_mem_cons, List.length_take]
    exact ⟨by omega, ih⟩

theorem chunks_length (s : BitSeq) : (chunks s).length = (s.length + 15) / 16 := by
  induction s using chunks_induction with
  | nil => rfl
  | cut s hs ih =>
    have hpos := List.length_pos_iff.mpr hs
    rw [chunks_of_ne_nil hs, List.length_cons, ih, List.length_drop]
    omega

/-- A chunk that is not the last has bits after it, so it is full. -/
theorem length_eq_of_mem_dropLast_chunks (s : BitSeq) : ∀ c ∈ (chunks s).dropLast, c.length = 16 := by
  induction s using chunks_induction with
  | nil => simp
  | cut s hs ih =>
    rw [chunks_of_ne_nil hs]
    by_cases hrest : s.drop 16 = []
    · simp [hrest]
    · have hlen : 16 < s.length := by simpa using hrest
      have hne : chunks (s.drop 16) ≠ [] := by simp [chunks_of_ne_nil hrest]
      rw [List.dropLast_cons_of_ne_nil hne, List.forall_mem_cons, List.length_take]
      exact ⟨by omega, ih⟩

end Sys2Proof.Machine

namespace Sys2Proof.Claims

open Sys2Proof.Machine

/-- Settles O6, along the cut: the first 16 bits, then the chunks of the rest; each chunk is the operand of a feed. -/
theorem chunksCarryTheSequence : Obligations.ChunksCarryTheSequence := by
  unfold Obligations.ChunksCarryTheSequence
  intro s
  refine ⟨chunks_flatten s, chunks_isCut s, chunks_length s, length_eq_of_mem_dropLast_chunks s, fun c hc => ?_⟩
  obtain ⟨hpos, hle⟩ := chunks_isCut s c hc
  exact ⟨feedOperands_val16 hpos hle, seqF_val16 hle⟩

end Sys2Proof.Claims

/-! What the opcode of one command answers: the one word of a format Z command (30_encoding.md R50), and the words of a
format F command (30_encoding.md R51); any other word of the opcode is illegal (43_control.md R108). -/

namespace Sys2Proof.Claims

open Sys2Proof.Machine

/-- A word of the format's opcode with other operands is illegal, and `rejectCommand` is `answered`. -/
theorem acceptWord_of_not_allowsOperands {fmt : Format} {w : Word} (hop : fmt.HasOpcode w)
    (hnot : ¬ fmt.AllowsOperands w) (s : State) : acceptWord w s = .next (s.answered .illegal 0#32) := by
  have hlegal : ¬ legal w = true := (legal_iff_of_hasOpcode hop).not.mpr hnot
  obtain ⟨e, hdecode⟩ := (not_legal_iff_exists_error w).mp hlegal
  exact acceptWord_illegal w s e hdecode

theorem allowsOperands_z_iff {w : Word} :
    Format.z.AllowsOperands w ↔ rsvField w = 0#3 ∧ nField w = 0#5 ∧ dField w = 0#16 := by
  rw [Format.AllowsOperands, ← operands_z_iff, ← BitVec.toNat_inj (x := nField w)]
  rfl

theorem allowsOperands_f_iff {w : Word} :
    Format.f.AllowsOperands w ↔ rsvField w = 0#3 ∧ FeedOperands (nField w).toNat (dField w) := by
  rw [Format.AllowsOperands, ← feedOperands_iff]

/-- Format Z fixes RSV, N and D, so only OP is left to tell its words apart. -/
theorem eq_of_allowsOperands_z {v w : Word} (hop : opField v = opField w) (hv : Format.z.AllowsOperands v)
    (hw : Format.z.AllowsOperands w) : v = w := by
  obtain ⟨hrsv, hn, hd⟩ := allowsOperands_z_iff.mp hv
  obtain ⟨hrsv', hn', hd'⟩ := allowsOperands_z_iff.mp hw
  rw [← fields_append v, ← fields_append w, hop, hrsv, hn, hd, hrsv', hn', hd']

theorem onlyWord_of_format_z {i : Instr} {w0 : Word} (hwf : i.WellFormed) (hfmt : i.format = .z)
    (hword : encode i = w0) : OnlyWord i w0 := by
  subst hword
  obtain ⟨hop, hoperands⟩ := hasOpcode_and_allowsOperands_encode hwf
  rw [hfmt] at hop hoperands
  refine ⟨rfl, decode_encode hwf, fun w s hsame hne => ?_⟩
  have hop' : Format.z.HasOpcode w := by rwa [Format.HasOpcode, hsame]
  exact acceptWord_of_not_allowsOperands hop' (fun h => hne (eq_of_allowsOperands_z hsame h hoperands)) s

/-- The four fields side by side, as the sum of their places (30_encoding.md R49). -/
theorem fields_eq_or (op : BitVec 8) {n : Nat} (d : Half) (hn : n ≤ 16) :
    op ++ 0#3 ++ BitVec.ofNat 5 n ++ d = (op ++ 0#24) ||| (BitVec.ofNat 32 n <<< 16) ||| d.setWidth 32 := by
  have hcount : n % 2 ^ 5 = n := Nat.mod_eq_of_lt (by omega)
  have hshift : (n <<< 16) % 2 ^ 32 = n <<< 16 := Nat.mod_eq_of_lt (by rw [Nat.shiftLeft_eq]; omega)
  have hdata : d.toNat % 2 ^ 32 = d.toNat := Nat.mod_eq_of_lt (by have := d.isLt; omega)
  apply BitVec.eq_of_toNat_eq
  simp only [BitVec.toNat_append, BitVec.toNat_or, BitVec.toNat_shiftLeft, BitVec.toNat_setWidth, BitVec.toNat_ofNat,
    Nat.zero_mod, Nat.or_zero, Nat.shiftLeft_or_distrib, ← Nat.shiftLeft_add, hcount, hdata]
  rw [Nat.mod_eq_of_lt (by omega : n < 2 ^ 32), hshift]

theorem feedWord_of_format_f {mk : Nat → Half → Instr} {base : Word} (hop : Format.f.HasOpcode base)
    (hwf : ∀ n d, FeedOperands n d → (mk n d).WellFormed)
    (hword : ∀ n d, encode (mk n d) = opField base ++ 0#3 ++ BitVec.ofNat 5 n ++ d)
    (hbase : base = opField base ++ 0#24) : FeedWord mk base := by
  refine ⟨fun n d hops => ⟨?_, decode_encode (hwf n d hops)⟩, fun w s hsame hbad => ?_⟩
  · rw [hword, fields_eq_or _ d hops.2.1, ← hbase]
  · have hop' : Format.f.HasOpcode w := by rwa [Format.HasOpcode, hsame]
    refine acceptWord_of_not_allowsOperands hop' (fun h => ?_) s
    obtain ⟨hrsv, hpos, hle, hunused⟩ := allowsOperands_f_iff.mp h
    obtain hbad | hbad | hbad | hbad := hbad
    · exact hbad hrsv
    · rw [hbad] at hpos
      exact absurd hpos (by decide)
    · omega
    · exact hbad hunused

end Sys2Proof.Claims

/-! The LFSR (40_crc16.md R63 to R71). Its step is read off bit by bit; linearity and injectivity in the register
follow, and the residue law is the shift that feeding a register's own top bits makes. -/

namespace Sys2Proof.Machine

open Sys2Proof.Reference

/-- The bits of POLY = 0x1021. -/
theorem poly_getLsbD {i : Nat} (hi : i < 16) : Config.poly.getLsbD i = decide (i = 0 ∨ i = 5 ∨ i = 12) := by
  revert i
  decide

/-- The shift of R63. -/
theorem shiftLeft_one_getLsbD (r : Half) {i : Nat} (hi : i < 16) :
    (r <<< 1).getLsbD i = (decide (i ≠ 0) && r.getLsbD (i - 1)) := by
  rw [BitVec.getLsbD_shiftLeft]
  simp [hi]

/-- The step of R63 by its feedback, bit 15 XOR the input. -/
theorem crcStep_eq (r : Half) (b : Bool) :
    crcStep r b = if (r.getLsbD 15 ^^ b) = true then r <<< 1 ^^^ Config.poly else r <<< 1 := rfl

theorem crcStep_getLsbD (r : Half) (b : Bool) {i : Nat} (hi : i < 16) :
    (crcStep r b).getLsbD i =
      ((decide (i ≠ 0) && r.getLsbD (i - 1)) ^^ (decide (i = 0 ∨ i = 5 ∨ i = 12) && (r.getLsbD 15 ^^ b))) := by
  rw [crcStep_eq, ← shiftLeft_one_getLsbD r hi, ← poly_getLsbD hi]
  split
  · next h => rw [BitVec.getLsbD_xor, h, Bool.and_true]
  · next h => rw [Bool.eq_false_iff.mpr h, Bool.and_false, Bool.xor_false]

/-- A register whose top bit is the input is only shifted (40_crc16.md R63). -/
theorem crcStep_msb (c : Half) : crcStep c (c.getLsbD 15) = c <<< 1 := by
  rw [crcStep_eq, Bool.xor_self, if_neg Bool.false_ne_true]

/-- The step is linear in register and input, since each of its bits is (40_crc16.md R71). -/
theorem crcStep_xor (r₁ r₂ : Half) (b₁ b₂ : Bool) :
    crcStep (r₁ ^^^ r₂) (b₁ ^^ b₂) = crcStep r₁ b₁ ^^^ crcStep r₂ b₂ := by
  apply BitVec.eq_of_getLsbD_eq
  intro i hi
  simp only [BitVec.getLsbD_xor, crcStep_getLsbD _ _ hi, Bool.and_xor_distrib_left, Bool.xor_assoc, Bool.xor_left_comm]

/-- Bit 0 of the result gives the top bit of the register, and each bit above gives the one below it. -/
theorem crcStep_left_inj {r₁ r₂ : Half} {b : Bool} (h : crcStep r₁ b = crcStep r₂ b) : r₁ = r₂ := by
  have hbits {i : Nat} (hi : i < 16) :=
    (crcStep_getLsbD r₁ b hi).symm.trans ((congrArg (BitVec.getLsbD · i) h).trans (crcStep_getLsbD r₂ b hi))
  have htop : r₁.getLsbD 15 = r₂.getLsbD 15 := by simpa using hbits (i := 0) (by decide)
  apply BitVec.eq_of_getLsbD_eq
  intro i hi
  obtain hlt | rfl : i < 15 ∨ i = 15 := by omega
  · have hbit := hbits (Nat.succ_lt_succ hlt)
    rw [htop] at hbit
    simpa using hbit
  · exact htop

theorem crcRun_left_inj {r₁ r₂ : Half} {s : BitSeq} (h : crcRun r₁ s = crcRun r₂ s) : r₁ = r₂ := by
  induction s generalizing r₁ r₂ with
  | nil => exact h
  | cons b s ih => exact crcStep_left_inj (ih h)

theorem crcRun_xorSeq (r₁ r₂ : Half) {s t : BitSeq} (hlen : s.length = t.length) :
    crcRun (r₁ ^^^ r₂) (xorSeq s t) = crcRun r₁ s ^^^ crcRun r₂ t := by
  induction s generalizing r₁ r₂ t with
  | nil =>
    obtain rfl := List.length_eq_zero_iff.mp hlen.symm
    rfl
  | cons b s ih =>
    cases t with
    | nil => cases hlen
    | cons b' t =>
      rw [crcRun_cons, crcRun_cons, ← ih _ _ (Nat.succ.inj hlen), ← crcStep_xor]
      rfl

theorem crc16_append (s t : BitSeq) : crc16 (s ++ t) = crcRun (crc16 s) t := crcRun_append _ _ _

theorem crc16_xorSeq {s t : BitSeq} (hlen : s.length = t.length) : crc16 (xorSeq s t) = crc16 s ^^^ crc16 t := by
  rw [crc16, crc16, crc16, ← crcRun_xorSeq _ _ hlen, BitVec.xor_self]

/-- Feeding a register its own top `n` bits shifts them out. -/
theorem crcRun_seqF_top (n : Nat) (c d : Half) (hn : n ≤ 16)
    (htop : ∀ i < n, d.getLsbD i = c.getLsbD (16 - n + i)) : crcRun c (seqF n d) = c <<< n := by
  induction n generalizing c with
  | zero => simp [seqF]
  | succ n ih =>
    have hmsb : d.getLsbD n = c.getLsbD 15 := by
      rw [htop n n.lt_succ_self, show 16 - (n + 1) + n = 15 by omega]
    have hrest : ∀ i < n, d.getLsbD i = (c <<< 1).getLsbD (16 - n + i) := by
      intro i hi
      rw [htop i (by omega), shiftLeft_one_getLsbD c (by omega), decide_eq_true (by omega), Bool.true_and,
        show 16 - n + i - 1 = 16 - (n + 1) + i by omega]
    rw [seqF, crcRun_cons, hmsb, crcStep_msb, ih _ (by omega) hrest, ← BitVec.shiftLeft_add, Nat.add_comm]

theorem crcRun_bits16_self (c : Half) : crcRun c (bits16 c) = 0x0000#16 := by
  rw [bits16, crcRun_seqF_top 16 c c le_rfl (by simp)]
  exact BitVec.shiftLeft_eq_zero le_rfl

/-- The residue is 0 for the register's own bits only (40_crc16.md R70). -/
theorem crcRun_bits16_eq_zero_iff (c r : Half) : crcRun c (bits16 r) = 0x0000#16 ↔ r = c := by
  constructor
  · intro h
    exact crcRun_left_inj ((crcRun_bits16_self r).trans h.symm)
  · rintro rfl
    exact crcRun_bits16_self r

theorem crc16_buildFrame (d : BitSeq) : crc16 (buildFrame d) = 0x0000#16 := by
  rw [buildFrame, crc16_append, crcRun_bits16_self]

/-- A frame matches when its last 16 bits are the CRC of the others (42_frame.md R92). -/
theorem verifyFrame_matched_iff {f : BitSeq} (hlen : 17 ≤ f.length) :
    (∃ rc cc, verifyFrame f = .matched rc cc) ↔
      val16 (f.drop (f.length - 16)) = crc16 (f.take (f.length - 16)) := by
  have hlong : ¬ f.length < Config.minFrame := Nat.not_lt.mpr hlen
  rw [verifyFrame, if_neg hlong]
  dsimp only
  split
  · next h => exact iff_of_true ⟨_, _, rfl⟩ h
  · next h => exact iff_of_false (by simp) h

/-- Verification by the residue (40_crc16.md R70). -/
theorem verifyFrame_matched_iff_crc16 {f : BitSeq} (hlen : 17 ≤ f.length) :
    (∃ rc cc, verifyFrame f = .matched rc cc) ↔ crc16 f = 0x0000#16 := by
  have hlast : (f.drop (f.length - 16)).length = 16 := by
    rw [List.length_drop]
    omega
  have hbits : bits16 (val16 (f.drop (f.length - 16))) = f.drop (f.length - 16) := by
    have h := seqF_val16 hlast.le
    rwa [hlast] at h
  have hsplit : crc16 f = crcRun (crc16 (f.take (f.length - 16))) (bits16 (val16 (f.drop (f.length - 16)))) := by
    rw [hbits, ← crc16_append, List.take_append_drop]
  rw [verifyFrame_matched_iff hlen, hsplit, crcRun_bits16_eq_zero_iff]

end Sys2Proof.Machine

namespace Sys2Proof.Claims

open Sys2Proof.Machine Sys2Proof.Reference

theorem buildFrame_length (d : BitSeq) : (buildFrame d).length = d.length + 16 := by
  simp [buildFrame, bits16]

/-- The loop of R67 runs the LFSR over the sequence that the command carries. -/
theorem lfsrLoop_eq_crcRun (n : Nat) (r d : Half) : lfsrLoop n r d = crcRun r (seqF n d) := by
  induction n generalizing r with
  | zero => rfl
  | succ n ih => exact ih _

/-- Zeros leave a zero register as it is (40_crc16.md R67). -/
theorem lfsrLoop_zero (n : Nat) : lfsrLoop n 0x0000#16 0x0000#16 = 0x0000#16 := by
  induction n with
  | zero => rfl
  | succ n ih =>
    have hstep : crcStep 0x0000#16 false = 0x0000#16 := by decide
    rw [lfsrLoop, BitVec.getLsbD_zero, hstep, ih]

/-- Settles O16: the command runs the LFSR over its bits, in the order of the loop, and its words are those of
format F. -/
theorem crcFeedCompletes : Obligations.CrcFeedCompletes := by
  unfold Obligations.CrcFeedCompletes
  refine ⟨feedWord_of_format_f (by decide) (fun _ _ h => h) (fun _ _ => rfl) (by decide), fun n d s _ => ?_,
    lfsrLoop_zero, ?_⟩
  · rw [exec_crcFeed, lfsrLoop_eq_crcRun]
    rfl
  · simp [lfsrLoop, crcStep, Config.poly]

/-- Settles O38: the shift gives bit i-1, and POLY has its bits at the taps. -/
theorem crcStepTaps : Obligations.CrcStepTaps := by
  unfold Obligations.CrcStepTaps
  exact fun r b _ hi => crcStep_getLsbD r b hi

/-- Settles O41: a register shifts its own bits out, no other register takes them to 0, and the last 16 bits of a frame
are fed to the CRC of the others. -/
theorem crcResidue : Obligations.CrcResidue := by
  unfold Obligations.CrcResidue
  exact ⟨crc16_buildFrame, crcRun_bits16_eq_zero_iff, fun _ => verifyFrame_matched_iff_crc16⟩

/-- Settles O40: the residue of a corrupted frame is that of the frame, which is 0, XOR that of the pattern. -/
theorem crcLinear : Obligations.CrcLinear := by
  unfold Obligations.CrcLinear
  refine ⟨crcStep_xor, fun _ _ => crc16_xorSeq, fun d e hpos hlen => ?_, ?_⟩
  · have hlong : 17 ≤ (xorSeq (buildFrame d) e).length := by
      rw [xorSeq, List.length_zipWith, hlen, min_self, buildFrame_length]
      omega
    rw [verifyFrame_matched_iff_crc16 hlong, crc16_xorSeq hlen.symm, crc16_buildFrame, BitVec.zero_xor]
  · have hone : crcStep 0x0000#16 true = 0x1021#16 := by decide
    rw [crc16, crcRun_cons, hone, crcRun_bits16_self]

/-- Settles O15: the clear, answered; CRC.CLR has format Z. -/
theorem crcClrCompletes : Obligations.CrcClrCompletes := by
  unfold Obligations.CrcClrCompletes
  exact ⟨onlyWord_of_format_z trivial rfl (by decide), exec_crcClr⟩

/-- Settles O39: the LFSR run on the values of R63, R65 and R72. -/
theorem crcReferenceValues : Obligations.CrcReferenceValues := by
  unfold Obligations.CrcReferenceValues
  simp [crc16, crcRun, bits16, seqF, crcStep, Config.poly]

end Sys2Proof.Claims

/-! CRC.FEED over a list of commands (40_crc16.md R68): the clears aside, no other command writes CRC and CNE, so the
LFSR runs over the bits of the feeds in their order. -/

namespace Sys2Proof.Machine

open Sys2Proof.Claims Sys2Proof.Reference Sys2Proof.Harness

/-- The word of a well-formed command has the command's effect and is answered. -/
theorem acceptWord_encode {i : Instr} (hwf : i.WellFormed) (s : State) :
    ∃ c v, acceptWord (encode i) s = .next ((s.effect i).respond c v) := by
  rw [acceptWord_command _ s i (decode_encode hwf)]
  exact exec_eq_effect_respond i s

/-- The words of two lists, one after the other. -/
theorem transcript_append (ws vs : List Word) (s : State) :
    transcript (ws ++ vs) s =
      ((transcript vs (transcript ws s).1).1, (transcript ws s).2 ++ (transcript vs (transcript ws s).1).2) := by
  induction ws generalizing s with
  | nil => rfl
  | cons w ws ih =>
    obtain ⟨t, haccept⟩ := exists_acceptWord_eq_next w s
    simp only [List.cons_append, transcript, haccept, ih]

theorem lastResponse_transcript_append_singleton (ws : List Word) {w : Word} {s t : State}
    (haccept : acceptWord w (transcript ws s).1 = .next t) :
    lastResponse (transcript (ws ++ [w]) s).2 = t.response := by
  simp [transcript_append, transcript, haccept, lastResponse]

/-- From `s` to `t` the CRC engine took `bits`: the LFSR ran over them, and CNE is set if there are any (40_crc16.md
R67). -/
abbrev CrcTook (bits : BitSeq) (s t : State) : Prop :=
  t.crc = crcRun s.crc bits ∧ (t.cne = true ↔ s.cne = true ∨ bits ≠ [])

theorem CrcTook.trans {a b : BitSeq} {s t u : State} (hst : CrcTook a s t) (htu : CrcTook b t u) :
    CrcTook (a ++ b) s u := by
  obtain ⟨hcrc, hcne⟩ := hst
  obtain ⟨hcrc', hcne'⟩ := htu
  constructor
  · rw [hcrc', hcrc, crcRun_append]
  · rw [hcne', hcne, or_assoc, ← not_and_or, ← List.append_eq_nil_iff]

/-- A command that is no listed writer of the CRC engine leaves it alone (10_state.md R18). -/
theorem crcTook_nil_of_not_writer {i : Instr} (s : State) (hcrc : i.mnemonic ∉ Element.crc.writers)
    (hcne : i.mnemonic ∉ Element.cne.writers) : CrcTook [] s (s.effect i) := by
  have hcrc' : (s.effect i).crc = s.crc := setWidth_inj (by decide) (State.effect_element i s hcrc)
  have hcne' : (s.effect i).cne = s.cne := ofBool_inj (setWidth_inj (by decide) (State.effect_element i s hcne))
  exact ⟨hcrc', by simp [hcne']⟩

/-- What R68 allows between the feeds: well-formed commands that do not clear the CRC engine. -/
abbrev KeepsCrc (i : Instr) : Prop := i.WellFormed ∧ i ≠ .crcClr ∧ i ≠ .srst

theorem crcTook_effect {i : Instr} (hkeep : KeepsCrc i) (s : State) : CrcTook (crcBits i) s (s.effect i) := by
  obtain ⟨hwf, hclr, hsrst⟩ := hkeep
  cases i with
  | crcClr | srst => contradiction
  | crcFeed n d =>
    have hbits : seqF n d ≠ [] := List.ne_nil_of_length_pos ((seqF_length n d).symm ▸ hwf.1)
    exact ⟨rfl, iff_of_true rfl (.inr hbits)⟩
  | nop | faTail | menc | rxClr | mdFeed | fdFeed | rxEnd | rd =>
    exact crcTook_nil_of_not_writer s (by simp [Instr.mnemonic, Element.writers])
      (by simp [Instr.mnemonic, Element.writers])

theorem crcTook_transcript {is : List Instr} (hkeep : ∀ i ∈ is, KeepsCrc i) (s : State) :
    CrcTook (is.map crcBits).flatten s (transcript (is.map encode) s).1 := by
  induction is generalizing s with
  | nil => exact ⟨rfl, by simp [transcript]⟩
  | cons i is ih =>
    obtain ⟨hi, hkeep'⟩ := List.forall_mem_cons.mp hkeep
    obtain ⟨c, v, haccept⟩ := acceptWord_encode hi.1 s
    have hfirst : CrcTook (crcBits i) s ((s.effect i).respond c v) := crcTook_effect hi s
    rw [List.map_cons, List.map_cons, List.flatten_cons, transcript_cons_fst haccept]
    exact hfirst.trans (ih hkeep' _)

/-- After CRC.CLR the register holds the CRC of what was fed since (40_crc16.md R68). -/
theorem transcript_crcClr_crc_cne {is : List Instr} (hkeep : ∀ i ∈ is, KeepsCrc i) (s : State) :
    (transcript (encode .crcClr :: is.map encode) s).1.crc = crc16 (is.map crcBits).flatten ∧
      ((transcript (encode .crcClr :: is.map encode) s).1.cne = true ↔ (is.map crcBits).flatten ≠ []) := by
  obtain ⟨c, v, haccept⟩ := acceptWord_encode (i := .crcClr) trivial s
  obtain ⟨hcrc, hcne⟩ := crcTook_transcript hkeep ((s.effect .crcClr).respond c v)
  rw [transcript_cons_fst haccept]
  exact ⟨hcrc, hcne.trans (or_iff_right Bool.false_ne_true)⟩

end Sys2Proof.Machine

namespace Sys2Proof.Claims

open Sys2Proof.Machine Sys2Proof.Reference

/-- Settles O42, by induction on the commands after CRC.CLR; a last CRC.FEED answers the register it leaves. -/
theorem crcFeedsComputeCrc16 : Obligations.CrcFeedsComputeCrc16 := by
  unfold Obligations.CrcFeedsComputeCrc16
  refine ⟨fun is s hkeep => transcript_crcClr_crc_cne hkeep s, fun is s n d hkeep hops => ?_⟩
  obtain ⟨hcrc, -⟩ := transcript_crcClr_crc_cne hkeep s
  have hdecode := decode_encode (i := .crcFeed n d) hops
  rw [List.map_append, ← List.cons_append, List.map_singleton,
    lastResponse_transcript_append_singleton _ ((acceptWord_command _ _ _ hdecode).trans (exec_crcFeed n d _)),
    crc16_append, ← hcrc]
  rfl

end Sys2Proof.Claims

/-! The reference functions of Manchester coding (41_manchester.md R73 to R76), over the complete pairs of a sequence: an
encoding is the list of its bits' pairs, and `decode` reads the pairs up to the first invalid one. -/

namespace Sys2Proof.Claims

open Sys2Proof.Machine Sys2Proof.Reference

/-- The pair of a bit: its complement, then the bit itself (41_manchester.md R73). -/
theorem pairOf_eq (b : Bool) : pairOf b = [!b, b] := by
  cases b <;> rfl

theorem encodeBits_cons (b : Bool) (s : BitSeq) : encodeBits (b :: s) = (!b) :: b :: encodeBits s := by
  rw [encodeBits, pairOf_eq]
  rfl

theorem encodeBits_append (s t : BitSeq) : encodeBits (s ++ t) = encodeBits s ++ encodeBits t := by
  induction s with
  | nil => rfl
  | cons b s ih => simp only [List.cons_append, encodeBits_cons, ih]

theorem encodeBits_length (s : BitSeq) : (encodeBits s).length = 2 * s.length := by
  induction s with
  | nil => rfl
  | cons b s ih => simp only [encodeBits_cons, List.length_cons, ih]; omega

theorem pairsOf_encodeBits (s : BitSeq) : pairsOf (encodeBits s) = s.map fun b => (!b, b) := by
  induction s with
  | nil => rfl
  | cons b s ih => rw [encodeBits_cons, pairsOf, ih, List.map_cons]

/-- The second halves of its pairs give a sequence back from its encoding. -/
theorem map_snd_pairsOf_encodeBits (s : BitSeq) : (pairsOf (encodeBits s)).map Prod.snd = s := by
  simp [pairsOf_encodeBits, Function.comp_def]

theorem pairsOf_length (e : BitSeq) : (pairsOf e).length = e.length / 2 := by
  induction e using pairsOf.induct with
  | case1 a b e ih => rw [pairsOf, List.length_cons, ih, List.length_cons, List.length_cons]; omega
  | case2 | case3 => simp [pairsOf]

theorem halfOf_isSome_iff (e : BitSeq) : (halfOf e).isSome = true ↔ e.length % 2 = 1 := by
  induction e using pairsOf.induct with
  | case1 a b e ih => rw [halfOf, ih, List.length_cons, List.length_cons]; omega
  | case2 | case3 => simp [halfOf]

/-! ## The first invalid pair -/

@[simp] theorem goodPairs_nil : goodPairs [] = [] := rfl

theorem goodPairs_cons_of_ne {a b : Bool} (h : a ≠ b) (ps : List (Bool × Bool)) :
    goodPairs ((a, b) :: ps) = (a, b) :: goodPairs ps := by
  simp [goodPairs, h]

theorem goodPairs_cons_self (b : Bool) (ps : List (Bool × Bool)) : goodPairs ((b, b) :: ps) = [] := by
  simp [goodPairs]

theorem goodPairs_length_le (ps : List (Bool × Bool)) : (goodPairs ps).length ≤ ps.length :=
  (List.takeWhile_prefix _).length_le

/-- There is no invalid pair exactly when every pair is valid. -/
theorem goodPairs_eq_self_iff (ps : List (Bool × Bool)) : goodPairs ps = ps ↔ ∀ p ∈ ps, p.1 ≠ p.2 := by
  simp only [goodPairs, List.takeWhile_eq_self_iff, bne_iff_ne]

/-- There are as many valid pairs at the front as the index of the first invalid one. -/
theorem goodPairs_length_eq_findIdx (ps : List (Bool × Bool)) :
    (goodPairs ps).length = ps.findIdx fun p => p.1 == p.2 := by
  induction ps with
  | nil => rfl
  | cons p ps ih =>
    obtain ⟨a, b⟩ := p
    by_cases hab : a = b
    · subst hab
      simp [goodPairs_cons_self, List.findIdx_cons]
    · simp [goodPairs_cons_of_ne hab, List.findIdx_cons, beq_eq_false_iff_ne.mpr hab, ih]

/-- The pair after the valid ones at the front is the first invalid one. -/
theorem first_invalid_pair_iff {ps : List (Bool × Bool)} {k : Nat} {p : Bool × Bool} :
    ((goodPairs ps).length < ps.length ∧ (goodPairs ps).length = k ∧ ps.getD (goodPairs ps).length (false, false) = p) ↔
      ps[k]? = some p ∧ p.1 = p.2 ∧ ∀ j q, j < k → ps[j]? = some q → q.1 ≠ q.2 := by
  rw [goodPairs_length_eq_findIdx]
  constructor
  · rintro ⟨hlt, rfl, rfl⟩
    obtain ⟨hequal, hbefore⟩ := (List.findIdx_eq hlt).mp rfl
    refine ⟨by simp [hlt], by simpa [hlt] using hequal, fun j q hj hq => ?_⟩
    obtain ⟨_, rfl⟩ := List.getElem?_eq_some_iff.mp hq
    simpa using hbefore j hj
  · rintro ⟨hget, hequal, hbefore⟩
    obtain ⟨hlt, rfl⟩ := List.getElem?_eq_some_iff.mp hget
    have hidx : (ps.findIdx fun p => p.1 == p.2) = k :=
      (List.findIdx_eq hlt).mpr ⟨by simpa using hequal, fun j hj => by
        simpa using hbefore j _ hj (List.getElem?_eq_getElem (hj.trans hlt))⟩
    simp [hidx, hlt]

/-! ## decode -/

/-- The pair loop decodes all pairs, or fails at the first invalid one (41_manchester.md R75). -/
theorem decodePairs_eq (k : Nat) (out e : BitSeq) :
    decodePairs k out e =
      if (goodPairs (pairsOf e)).length < (pairsOf e).length then
        .error (.invalidPair (k + (goodPairs (pairsOf e)).length)
          ((pairsOf e).getD (goodPairs (pairsOf e)).length (false, false)))
      else .ok (out ++ (goodPairs (pairsOf e)).map Prod.snd) := by
  induction e using pairsOf.induct generalizing k out with
  | case2 | case3 => simp [decodePairs, pairsOf]
  | case1 a b e ih =>
    by_cases hab : a = b
    · subst hab
      rw [pairsOf, goodPairs_cons_self]
      cases a <;> simp [decodePairs]
    · rw [pairsOf, goodPairs_cons_of_ne hab]
      have hstep : decodePairs k out (a :: b :: e) = decodePairs (k + 1) (out ++ [b]) e := by
        cases a <;> cases b <;> simp_all [decodePairs]
      simp [hstep, ih, Nat.add_assoc, Nat.add_comm 1]

theorem decodeBits_of_odd {e : BitSeq} (hodd : e.length % 2 = 1) : decodeBits e = .error .oddLength :=
  if_pos hodd

/-- On an even length `decode` is its pair loop (41_manchester.md R75). -/
theorem decodeBits_of_even {e : BitSeq} (heven : e.length % 2 = 0) :
    decodeBits e =
      if (goodPairs (pairsOf e)).length < (pairsOf e).length then
        .error (.invalidPair (goodPairs (pairsOf e)).length
          ((pairsOf e).getD (goodPairs (pairsOf e)).length (false, false)))
      else .ok ((goodPairs (pairsOf e)).map Prod.snd) := by
  rw [decodeBits, if_neg (by omega), decodePairs_eq, Nat.zero_add, List.nil_append]

theorem decodeBits_encodeBits (x : BitSeq) : decodeBits (encodeBits x) = .ok x := by
  have hgood : goodPairs (pairsOf (encodeBits x)) = pairsOf (encodeBits x) :=
    (goodPairs_eq_self_iff _).mpr (by simp [pairsOf_encodeBits])
  have heven : (encodeBits x).length % 2 = 0 := by rw [encodeBits_length]; omega
  rw [decodeBits_of_even heven, hgood, if_neg (Nat.lt_irrefl _), map_snd_pairsOf_encodeBits]

/-- A sequence of valid pairs is the encoding of their second halves. -/
theorem encodeBits_map_snd_pairsOf {e : BitSeq} (heven : e.length % 2 = 0) (hvalid : ∀ p ∈ pairsOf e, p.1 ≠ p.2) :
    encodeBits ((pairsOf e).map Prod.snd) = e := by
  induction e using pairsOf.induct with
  | case1 a b e ih =>
    rw [pairsOf, List.forall_mem_cons] at hvalid
    obtain ⟨hab, hvalid⟩ := hvalid
    have hrest := ih (by rw [List.length_cons, List.length_cons] at heven; omega) hvalid
    rw [pairsOf, List.map_cons, encodeBits_cons, hrest, ← Bool.eq_not_of_ne hab]
  | case2 => cases heven
  | case3 => rfl

/-- What `decode` accepts is an encoding (41_manchester.md R76). -/
theorem eq_encodeBits_of_decodeBits {e x : BitSeq} (h : decodeBits e = .ok x) : e = encodeBits x := by
  obtain hodd | heven : e.length % 2 = 1 ∨ e.length % 2 = 0 := by omega
  · rw [decodeBits_of_odd hodd] at h
    cases h
  · rw [decodeBits_of_even heven] at h
    split at h
    · cases h
    · next hall =>
      have hgood : goodPairs (pairsOf e) = pairsOf e :=
        (List.takeWhile_prefix _).eq_of_length_le (Nat.not_lt.mp hall)
      rw [hgood] at h
      cases h
      exact (encodeBits_map_snd_pairsOf heven ((goodPairs_eq_self_iff _).mp hgood)).symm

/-- Settles O43: the pairs of an encoding are those of its bits, so they are valid and give the bits back. -/
theorem encodeShape : Obligations.EncodeShape := by
  unfold Obligations.EncodeShape
  refine ⟨encodeBits_length, fun s p hp => ?_, fun s t h => ?_⟩
  · rw [pairsOf_encodeBits] at hp
    obtain ⟨b, -, rfl⟩ := List.mem_map.mp hp
    cases b <;> simp
  · rw [← map_snd_pairsOf_encodeBits s, h, map_snd_pairsOf_encodeBits]

/-- Settles O44: `decode` reads the pairs up to the first invalid one, and of an encoding that is all of them. -/
theorem decodeInvertsEncode : Obligations.DecodeInvertsEncode := by
  unfold Obligations.DecodeInvertsEncode
  refine ⟨decodeBits_encodeBits, fun e => decodeBits_of_odd, fun e heven k p => ?_,
    fun e x => eq_encodeBits_of_decodeBits⟩
  rw [decodeBits_of_even heven, ← first_invalid_pair_iff]
  split <;> simp [*]

end Sys2Proof.Claims

/-! MENC answers the encoding of its bits (41_manchester.md R77, R78): the word is the value of the encoding, and the host
reads the encoding out of its low bits. -/

namespace Sys2Proof.Machine

open Sys2Proof.Claims Sys2Proof.Reference Sys2Proof.Harness

/-- The host reads a sequence out of a word that holds its value in the low bits (20_memory.md R39). -/
theorem lowBits_of_getLsbD (s t : BitSeq) {w : Word}
    (hbits : ∀ j < t.length, w.getLsbD j = (msbVal (s ++ t)).testBit j) : lowBits t.length w = t := by
  induction t generalizing s with
  | nil => rfl
  | cons b t ih =>
    have hfirst : w.getLsbD t.length = b := by rw [hbits _ (by simp), testBit_msbVal]
    have hrest : ∀ j < t.length, w.getLsbD j = (msbVal (s ++ [b] ++ t)).testBit j := fun j hj => by
      rw [hbits j (by rw [List.length_cons]; omega), List.append_cons]
    rw [List.length_cons, lowBits, hfirst, ih _ hrest]

/-- A bit of an operand is followed by the bits below it (30_encoding.md R51). -/
theorem exists_seqF_split {n i : Nat} (hi : i < n) (d : Half) : ∃ pre, seqF n d = pre ++ d.getLsbD i :: seqF i d := by
  induction n with
  | zero => cases hi
  | succ n ih =>
    obtain hlt | rfl := Nat.lt_succ_iff_lt_or_eq.mp hi
    · obtain ⟨pre, hpre⟩ := ih hlt
      exact ⟨d.getLsbD n :: pre, by rw [seqF, hpre, List.cons_append]⟩
    · exact ⟨[], rfl⟩

/-- The pair that MENC's loop puts below the bits so far. -/
theorem shiftLeft_two_or_pair (v : Nat) (b : Bool) :
    (BitVec.ofNat 32 v <<< 2) ||| (if b = false then 0b10#32 else 0b01#32) =
      BitVec.ofNat 32 (v * 2 ^ 2 + msbVal (pairOf b)) := by
  have hpair : (if b = false then 0b10#32 else 0b01#32).toNat = msbVal (pairOf b) := by cases b <;> rfl
  have hlt : msbVal (pairOf b) < 2 ^ 2 := by cases b <;> decide
  have hshift : (BitVec.ofNat 32 v <<< 2).toNat = (v % 2 ^ 30) <<< 2 := by
    rw [BitVec.toNat_shiftLeft, BitVec.toNat_ofNat, Nat.shiftLeft_eq, Nat.shiftLeft_eq]
    omega
  apply BitVec.eq_of_toNat_eq
  rw [BitVec.toNat_or, hpair, hshift, ← Nat.shiftLeft_add_eq_or_of_lt hlt, Nat.shiftLeft_eq, BitVec.toNat_ofNat]
  omega

/-- MENC's loop computes the value of the encoding (41_manchester.md R77). -/
theorem mencWord_eq (s : BitSeq) : mencWord s = BitVec.ofNat 32 (msbVal (encodeBits s)) := by
  induction s using List.reverseRecOn with
  | nil => rfl
  | append_singleton s b ih =>
    have hlast : encodeBits [b] = pairOf b := List.append_nil _
    have hlen : (pairOf b).length = 2 := by rw [pairOf_eq]; rfl
    rw [mencWord, List.foldl_append, ← mencWord, ih, List.foldl_cons, List.foldl_nil, shiftLeft_two_or_pair,
      encodeBits_append, hlast, msbVal_append, hlen]

theorem lowBits_mencWord {c : BitSeq} (hle : c.length ≤ 16) : lowBits (2 * c.length) (mencWord c) = encodeBits c := by
  have hlen := encodeBits_length c
  rw [← hlen, mencWord_eq]
  refine lowBits_of_getLsbD [] _ fun j hj => ?_
  rw [BitVec.getLsbD_ofNat, decide_eq_true (by omega), Bool.true_and, List.nil_append]

/-- The pair of D[i] stands at bits 2i+1 and 2i of the word (41_manchester.md R77). -/
theorem mencWord_seqF_pair {n i : Nat} (hn : n ≤ 16) (hi : i < n) (d : Half) :
    (mencWord (seqF n d)).getLsbD (2 * i + 1) = !d.getLsbD i ∧ (mencWord (seqF n d)).getLsbD (2 * i) = d.getLsbD i := by
  obtain ⟨pre, hsplit⟩ := exists_seqF_split hi d
  have hlen : (encodeBits (seqF i d)).length = 2 * i := by rw [encodeBits_length, seqF_length]
  have hhigh := testBit_msbVal (encodeBits pre) (d.getLsbD i :: encodeBits (seqF i d)) (!d.getLsbD i)
  have hlow := testBit_msbVal (encodeBits pre ++ [!d.getLsbD i]) (encodeBits (seqF i d)) (d.getLsbD i)
  rw [List.length_cons, hlen] at hhigh
  rw [hlen, ← List.append_cons] at hlow
  rw [mencWord_eq, hsplit, encodeBits_append, encodeBits_cons, BitVec.getLsbD_ofNat, BitVec.getLsbD_ofNat, hhigh, hlow,
    decide_eq_true (by omega), decide_eq_true (by omega), Bool.true_and, Bool.true_and]
  exact ⟨rfl, rfl⟩

theorem mencWord_seqF_high {n j : Nat} (hj : 2 * n ≤ j) (d : Half) : (mencWord (seqF n d)).getLsbD j = false := by
  have hlt := msbVal_lt (encodeBits (seqF n d))
  rw [encodeBits_length, seqF_length] at hlt
  rw [mencWord_eq, BitVec.getLsbD_ofNat, Nat.testBit_lt_two_pow (hlt.trans_le (Nat.pow_le_pow_right (by decide) hj)),
    Bool.and_false]

/-- MENC of a chunk of a cut (41_manchester.md R78). -/
theorem acceptWord_menc {c : BitSeq} (s : State) (hpos : 1 ≤ c.length) (hle : c.length ≤ 16) :
    acceptWord (encode (Asm.feedSeq .menc c)) s = .next (s.respond .ok (mencWord c)) := by
  have hdecode := decode_encode (i := Asm.feedSeq .menc c) (feedOperands_val16 hpos hle)
  rw [acceptWord_command _ s _ hdecode, Asm.feedSeq, exec_menc, seqF_val16 hle]

theorem transcript_cons_snd {w : Word} {s t : State} (haccept : acceptWord w s = .next t) (ws : List Word) :
    (transcript (w :: ws) s).2 = t.response :: (transcript ws t).2 := by
  rw [transcript, haccept]

theorem mencBits_transcript {cs : List BitSeq} (hcut : IsCut cs) (s : State) :
    mencBits cs (transcript (feedWords .menc cs) s).2 = encodeBits cs.flatten := by
  induction cs generalizing s with
  | nil => rfl
  | cons c cs ih =>
    obtain ⟨⟨hpos, hle⟩, hcut'⟩ := List.forall_mem_cons.mp hcut
    have hrest := ih hcut' (s.respond .ok (mencWord c))
    rw [feedWords, mencBits] at hrest
    rw [feedWords, List.map_cons, transcript_cons_snd (acceptWord_menc s hpos hle), mencBits, List.zipWith_cons_cons,
      List.flatten_cons, List.flatten_cons, encodeBits_append, hrest]
    exact congrArg (· ++ _) (lowBits_mencWord hle)

end Sys2Proof.Machine

namespace Sys2Proof.Claims

open Sys2Proof.Machine Sys2Proof.Reference

/-- Settles O18: the word is the value of the encoding of the bits, whose pairs stand where R77 puts them. -/
theorem mencCompletes : Obligations.MencCompletes := by
  unfold Obligations.MencCompletes
  refine ⟨feedWord_of_format_f (by decide) (fun _ _ h => h) (fun _ _ => rfl) (by decide), fun n d hops => ?_⟩
  obtain ⟨-, hle, -⟩ := hops
  exact ⟨mencWord (seqF n d), fun s => exec_menc n d s, fun i hi => mencWord_seqF_pair hle hi d,
    fun j hj => mencWord_seqF_high hj d⟩

/-- Settles O45: each response holds the encoding of its chunk, and the encodings of a cut join to that of the whole. -/
theorem mencChunksEncode : Obligations.MencChunksEncode := by
  unfold Obligations.MencChunksEncode
  refine ⟨fun c s t hpos hle haccept => ?_, fun cs s hcut => mencBits_transcript hcut s⟩
  rw [acceptWord_menc s hpos hle] at haccept
  cases haccept
  exact ⟨rfl, lowBits_mencWord hle⟩

end Sys2Proof.Claims

/-! The disassembler's loop in closed form (42_frame.md R94, R95): what stands in TAIL, RXCRC and FCNT after any bits are
pushed in any state. The delay line takes each bit in at one end and lets its oldest bit out at the other. -/

namespace Sys2Proof.Machine

open Sys2Proof.Claims

theorem val16_bits16 (v : Half) : val16 (bits16 v) = v := by
  apply BitVec.eq_of_getLsbD_eq
  intro i hi
  obtain ⟨pre, hsplit⟩ := exists_seqF_split hi v
  have hbit := val16_getLsbD pre (seqF i v) (v.getLsbD i) (by rwa [seqF_length])
  rwa [seqF_length, ← hsplit] at hbit

/-- A push moves the delay line on by one bit (10_state.md R24). -/
theorem bits16_tail_fdPush (b : Bool) (s : State) :
    bits16 s.tail ++ [b] = s.tail.getLsbD 15 :: bits16 (fdPush b s).tail := by
  have hline : bits16 s.tail = s.tail.getLsbD 15 :: seqF 15 s.tail := rfl
  have hlen : (seqF 15 s.tail ++ [b]).length = 16 := by rw [List.length_append, seqF_length]; rfl
  have hrest := seqF_val16_append [s.tail.getLsbD 15] (seqF 15 s.tail ++ [b]) hlen.le
  rw [hlen, ← List.append_assoc, List.singleton_append, ← hline, ← val16_append_singleton, val16_bits16,
    ← bits16] at hrest
  rw [fdPush_tail, hrest, hline, List.cons_append]

theorem bits16_tail_append_cons (b : Bool) (bits : BitSeq) (s : State) :
    bits16 s.tail ++ b :: bits = s.tail.getLsbD 15 :: (bits16 (fdPush b s).tail ++ bits) := by
  rw [List.append_cons, bits16_tail_fdPush, List.cons_append]

theorem saturated_toNat_self (x : Word) : saturated x.toNat = x := by
  have := x.isLt
  apply BitVec.eq_of_toNat_eq
  rw [saturated_toNat]
  omega

theorem saturated_satinc_add (x : Word) (n : Nat) :
    saturated ((satinc x).toNat + n) = saturated (x.toNat + (n + 1)) := by
  apply BitVec.eq_of_toNat_eq
  rw [saturated_toNat, saturated_toNat, satinc_toNat]
  omega

theorem pushTail_cons (b : Bool) (bits : BitSeq) (s : State) : pushTail s (b :: bits) = pushTail (fdPush b s) bits := by
  rw [pushTail, bits16_tail_append_cons, List.length_cons, List.drop_succ_cons, pushTail]

/-- The oldest bit goes through the LFSR once the delay line holds 16 (42_frame.md R94). -/
theorem pushCrc_cons (b : Bool) (bits : BitSeq) (s : State) : pushCrc s (b :: bits) = pushCrc (fdPush b s) bits := by
  have hcount := satinc_toNat s.fcnt
  have hfull : 16#32 ≤ s.fcnt ↔ 16 ≤ s.fcnt.toNat := BitVec.le_def
  rw [pushCrc, bits16_tail_append_cons, List.length_cons, List.take_succ_cons, pushCrc, fdPush_rxcrc, fdPush_fcnt]
  by_cases h : 16 ≤ s.fcnt.toNat
  · rw [if_pos (hfull.mpr h), show 16 - s.fcnt.toNat = 0 by omega, show 16 - (satinc s.fcnt).toNat = 0 by omega]
    rfl
  · rw [if_neg (hfull.not.mpr h), show 16 - s.fcnt.toNat = (16 - (satinc s.fcnt).toNat) + 1 by omega,
      List.drop_succ_cons]

theorem pushCount_cons (b : Bool) (bits : BitSeq) (s : State) :
    pushCount s (b :: bits) = pushCount (fdPush b s) bits := by
  rw [pushCount, pushCount, fdPush_fcnt, saturated_satinc_add, List.length_cons]

/-- The bit loop of FD.FEED in closed form. -/
theorem fdRun_eq (bits : BitSeq) (s : State) :
    fdRun bits s = { s with tail := pushTail s bits, rxcrc := pushCrc s bits, fcnt := pushCount s bits } := by
  induction bits generalizing s with
  | nil => simp [fdRun, pushTail, pushCrc, pushCount, val16_bits16, saturated_toNat_self]
  | cons b bits ih => rw [fdRun, ih, pushTail_cons, pushCrc_cons, pushCount_cons]; rfl

end Sys2Proof.Machine

/-! The decoder's loop in closed form (41_manchester.md R79, R80): the complete pairs of the held half and the fed bits
are decoded up to the first invalid one, which is recorded, and the bit left over is held. -/

namespace Sys2Proof.Machine

open Sys2Proof.Claims

/-- The half of a pair that the decoder holds, if any (10_state.md R21). -/
def State.held (s : State) : BitSeq := if s.hv = true then [s.h] else []

/-- The decoder with no half held. -/
def State.withoutHalf (s : State) : State := { s with hv := false, h := false }

/-- A complete pair that is not recorded: it is counted, and no half is held (10_state.md R22). -/
def State.completePair (s : State) : State := { s with hv := false, h := false, pidx := satinc s.pidx }

/-- The pair `(e, e)`, counted and recorded as the first invalid one (10_state.md R23). -/
def State.recordPair (e : Bool) (s : State) : State :=
  { s with hv := false, h := false, pidx := satinc s.pidx, ev := true, epos := s.pidx,
           eobs := BitVec.ofBool e ++ BitVec.ofBool e }

/-- The pairs that are decoded: those before the first invalid one, and none once one is recorded. -/
def State.accepted (ps : List (Bool × Bool)) (s : State) : List (Bool × Bool) :=
  if s.ev = true then [] else goodPairs ps

/-- The first invalid pair is among these. -/
def State.finds (ps : List (Bool × Bool)) (s : State) : Bool :=
  !s.ev && decide ((s.accepted ps).length < ps.length)

/-- The bits that the decoder gives for an encoded sequence. -/
def State.decodedBits (e : BitSeq) (s : State) : BitSeq := (s.accepted (pairsOf e)).map Prod.snd

/-- The decoder after an encoded sequence that begins with a pair's first half. -/
def State.afterPairs (e : BitSeq) (s : State) : State :=
  { s with
    hv := (halfOf e).isSome
    h := (halfOf e).getD false
    pidx := saturated (s.pidx.toNat + (pairsOf e).length)
    ev := s.ev || s.finds (pairsOf e)
    epos := if s.finds (pairsOf e) = true then saturated (s.pidx.toNat + (s.accepted (pairsOf e)).length) else s.epos
    eobs := if s.finds (pairsOf e) = true then
        pairBits ((pairsOf e).getD (s.accepted (pairsOf e)).length (false, false))
      else s.eobs }

theorem withoutHalf_eq_self {s : State} (hhv : s.hv = false) (hh : s.h = false) : s.withoutHalf = s := by
  cases s
  dsimp only at hhv hh
  rw [hhv, hh]
  rfl

theorem accepted_of_ev {s : State} (hev : s.ev = true) (ps : List (Bool × Bool)) : s.accepted ps = [] := if_pos hev

theorem accepted_of_not_ev {s : State} (hev : s.ev = false) (ps : List (Bool × Bool)) : s.accepted ps = goodPairs ps :=
  if_neg (by simp [hev])

theorem accepted_length_le (ps : List (Bool × Bool)) (s : State) : (s.accepted ps).length ≤ ps.length := by
  rw [State.accepted]
  split
  · exact Nat.zero_le _
  · exact goodPairs_length_le ps

theorem finds_of_ev {s : State} (hev : s.ev = true) (ps : List (Bool × Bool)) : s.finds ps = false := by
  simp [State.finds, hev]

theorem finds_of_not_ev {s : State} (hev : s.ev = false) (ps : List (Bool × Bool)) :
    s.finds ps = decide ((goodPairs ps).length < ps.length) := by
  simp [State.finds, hev, accepted_of_not_ev]

theorem decodedBits_of_pairsOf_eq_nil {e : BitSeq} (h : pairsOf e = []) (s : State) : s.decodedBits e = [] := by
  simp [State.decodedBits, State.accepted, h]

theorem afterPairs_of_pairsOf_eq_nil {e : BitSeq} (h : pairsOf e = []) (s : State) :
    s.afterPairs e = { s with hv := (halfOf e).isSome, h := (halfOf e).getD false } := by
  simp [State.afterPairs, State.accepted, State.finds, h, saturated_toNat_self]

/-! One pair: what the state after it makes of the pairs that follow. -/

theorem mdStep_hold {s : State} (hhv : s.hv = false) (a : Bool) :
    mdStep a s = ({ s with h := a, hv := true }, none) := by
  simp [mdStep, hhv]

theorem mdRun_hold {s : State} (hhv : s.hv = false) (a : Bool) (es : BitSeq) :
    mdRun (a :: es) s = mdRun es { s with h := a, hv := true } := by
  rw [mdRun_cons, mdStep_hold hhv]

/-- A pair after an invalid one gives no bit (41_manchester.md R86). -/
theorem mdRun_pair_of_ev {s : State} (hhv : s.hv = false) (hev : s.ev = true) (a b : Bool) (es : BitSeq) :
    mdRun (a :: b :: es) s = mdRun es s.completePair := by
  rw [mdRun_hold hhv, mdRun_cons]
  simp [mdStep, hev, State.completePair]

theorem mdRun_pair_of_ne {s : State} (hhv : s.hv = false) (hev : s.ev = false) {a b : Bool} (hab : a ≠ b)
    (es : BitSeq) :
    mdRun (a :: b :: es) s =
      ((mdRun es (fdPush b s.completePair)).1, b :: (mdRun es (fdPush b s.completePair)).2) := by
  have hstep : mdStep b { s with h := a, hv := true } = (s.completePair, some b) := by
    cases a <;> cases b <;> simp_all [mdStep, State.completePair]
  rw [mdRun_hold hhv, mdRun_cons, hstep]

theorem mdRun_pair_self {s : State} (hhv : s.hv = false) (hev : s.ev = false) (a : Bool) (es : BitSeq) :
    mdRun (a :: a :: es) s = mdRun es (s.recordPair a) := by
  have hstep : mdStep a { s with h := a, hv := true } = (s.recordPair a, none) := by
    cases a <;> simp [mdStep, hev, State.recordPair]
  rw [mdRun_hold hhv, mdRun_cons, hstep]

theorem afterPairs_of_ev {s : State} (hev : s.ev = true) (a b : Bool) (e : BitSeq) :
    s.completePair.afterPairs e = s.afterPairs (a :: b :: e) := by
  have hev' : s.completePair.ev = true := hev
  simp only [State.afterPairs, finds_of_ev hev, finds_of_ev hev', pairsOf, halfOf, List.length_cons,
    ← saturated_satinc_add]
  rfl

theorem afterPairs_of_ne {s : State} (hev : s.ev = false) {a b : Bool} (hab : a ≠ b) (e : BitSeq) :
    s.completePair.afterPairs e = s.afterPairs (a :: b :: e) := by
  have hev' : s.completePair.ev = false := hev
  simp only [State.afterPairs, finds_of_not_ev hev, finds_of_not_ev hev', accepted_of_not_ev hev,
    accepted_of_not_ev hev', pairsOf, halfOf, goodPairs_cons_of_ne hab, List.length_cons, ← saturated_satinc_add,
    Nat.add_lt_add_iff_right, List.getD_cons_succ]
  rfl

theorem afterPairs_self {s : State} (hev : s.ev = false) (a : Bool) (e : BitSeq) :
    (s.recordPair a).afterPairs e = s.afterPairs (a :: a :: e) := by
  have hev' : (s.recordPair a).ev = true := rfl
  have hpair : pairBits (a, a) = BitVec.ofBool a ++ BitVec.ofBool a := by cases a <;> rfl
  have hfinds : s.finds ((a, a) :: pairsOf e) = true := by simp [finds_of_not_ev hev, goodPairs_cons_self]
  simp only [State.afterPairs, finds_of_ev hev', hfinds, accepted_of_not_ev hev, pairsOf, halfOf, goodPairs_cons_self,
    List.length_cons, List.length_nil, List.getD_cons_zero, ← saturated_satinc_add, Nat.add_zero, saturated_toNat_self,
    hpair, hev]
  rfl

theorem afterPairs_fdPush (b : Bool) (e : BitSeq) (s : State) :
    (fdPush b s).afterPairs e = fdPush b (s.afterPairs e) := rfl

/-- The loop from a state that holds no half: the decoder goes on as `afterPairs` says, and the disassembler takes the
decoded bits. -/
theorem mdRun_of_no_half {s : State} (hhv : s.hv = false) (hh : s.h = false) (e : BitSeq) :
    mdRun e s = (fdRun (s.decodedBits e) (s.afterPairs e), s.decodedBits e) := by
  induction e using pairsOf.induct generalizing s with
  | case3 =>
    rw [mdRun_nil, decodedBits_of_pairsOf_eq_nil rfl, fdRun, afterPairs_of_pairsOf_eq_nil rfl]
    exact congrArg (·, []) (withoutHalf_eq_self hhv hh).symm
  | case2 a =>
    rw [mdRun_hold hhv, decodedBits_of_pairsOf_eq_nil rfl, fdRun, afterPairs_of_pairsOf_eq_nil rfl]
    rfl
  | case1 a b e ih =>
    cases hev : s.ev with
    | true =>
      have hbits : s.completePair.decodedBits e = s.decodedBits (a :: b :: e) := by
        rw [State.decodedBits, State.decodedBits, accepted_of_ev hev, accepted_of_ev (s := s.completePair) hev]
      rw [mdRun_pair_of_ev hhv hev, ih rfl rfl, afterPairs_of_ev hev, hbits]
    | false =>
      by_cases hab : a = b
      · subst hab
        have hbits : (s.recordPair a).decodedBits e = s.decodedBits (a :: a :: e) := by
          rw [State.decodedBits, State.decodedBits, accepted_of_not_ev hev, accepted_of_ev (s := s.recordPair a) rfl,
            pairsOf, goodPairs_cons_self]
        rw [mdRun_pair_self hhv hev, ih rfl rfl, afterPairs_self hev, hbits]
      · have hbits : b :: s.completePair.decodedBits e = s.decodedBits (a :: b :: e) := by
          rw [State.decodedBits, State.decodedBits, accepted_of_not_ev hev,
            accepted_of_not_ev (s := s.completePair) hev, pairsOf, goodPairs_cons_of_ne hab, List.map_cons]
        have hpush : (fdPush b s.completePair).decodedBits e = s.completePair.decodedBits e := rfl
        rw [mdRun_pair_of_ne hhv hev hab, ih rfl rfl, afterPairs_fdPush, hpush, afterPairs_of_ne hev hab, ← hbits,
          fdRun]

/-- A held half is as good as a bit still to be fed. -/
theorem mdRun_eq_mdRun_held {es : BitSeq} {s : State} (h : es ≠ [] ∨ (s.hv = false → s.h = false)) :
    mdRun es s = mdRun (s.held ++ es) s.withoutHalf := by
  cases hhv : s.hv with
  | true =>
    have hsame : ({ s.withoutHalf with h := s.h, hv := true } : State) = s := by simp [State.withoutHalf, ← hhv]
    rw [State.held, if_pos hhv, List.singleton_append, mdRun_hold rfl, hsame]
  | false =>
    rw [State.held, if_neg (by simp [hhv]), List.nil_append]
    cases es with
    | nil =>
      have hh := h.resolve_left (by simp) hhv
      rw [withoutHalf_eq_self hhv hh]
    | cons a es =>
      rw [mdRun_hold hhv, mdRun_hold rfl]
      rfl

/-- The bit loop of MD.FEED in closed form. -/
theorem mdRun_eq {es : BitSeq} {s : State} (h : es ≠ [] ∨ (s.hv = false → s.h = false)) :
    mdRun es s = (fdRun (s.decodedBits (s.held ++ es)) (s.afterPairs (s.held ++ es)), s.decodedBits (s.held ++ es)) :=
  (mdRun_eq_mdRun_held h).trans (mdRun_of_no_half rfl rfl _)

/-- Once an invalid pair is recorded, the loop only counts pairs and holds the half left over (41_manchester.md R86). -/
theorem mdRun_of_ev {es : BitSeq} {s : State} (hne : es ≠ []) (hev : s.ev = true) :
    mdRun es s = (s.afterPairs (s.held ++ es), []) := by
  rw [mdRun_eq (.inl hne), State.decodedBits, accepted_of_ev hev]
  rfl

theorem afterPairs_ev_of_ev {s : State} (hev : s.ev = true) (e : BitSeq) : (s.afterPairs e).ev = true := by
  rw [State.afterPairs, hev, Bool.true_or]

end Sys2Proof.Machine

/-! MD.FEED's response and the host's view of it (41_manchester.md R80, R81): RDATA holds at most eight decoded bits, which
the host reads out of it; over the chunks of a cut the loop runs over the whole sequence. -/

namespace Sys2Proof.Machine

open Sys2Proof.Claims Sys2Proof.Harness

theorem append_toNat {m n : Nat} (x : BitVec m) (y : BitVec n) : (x ++ y).toNat = x.toNat * 2 ^ n + y.toNat := by
  rw [BitVec.toNat_append, ← Nat.shiftLeft_add_eq_or_of_lt y.isLt, Nat.shiftLeft_eq]

/-- RDATA of MD.FEED as a sum (41_manchester.md R80). -/
theorem mdData_toNat (ev hv : Bool) (k : BitVec 4) (out : BitVec 8) :
    (mdData ev hv k out).toNat = 2 ^ 31 * ev.toNat + 2 ^ 30 * hv.toNat + 2 ^ 24 * k.toNat + out.toNat := by
  rw [mdData]
  simp only [append_toNat, BitVec.toNat_ofBool, BitVec.toNat_ofNat]
  omega

section DecodedBits

variable {bits : BitSeq} (hlen : bits.length ≤ 8)

include hlen

theorem msbVal_lt_of_length_le : msbVal bits < 2 ^ 8 :=
  (msbVal_lt bits).trans_le (Nat.pow_le_pow_right (by decide) hlen)

/-- Eight bits fit the fields k and out. -/
theorem mdData_toNat_of_length_le (ev hv : Bool) :
    (mdData ev hv (BitVec.ofNat 4 bits.length) (BitVec.ofNat 8 (msbVal bits))).toNat =
      2 ^ 31 * ev.toNat + 2 ^ 30 * hv.toNat + 2 ^ 24 * bits.length + msbVal bits := by
  rw [mdData_toNat, BitVec.toNat_ofNat, BitVec.toNat_ofNat, Nat.mod_eq_of_lt (by omega),
    Nat.mod_eq_of_lt (msbVal_lt_of_length_le hlen)]

theorem mdData_eq_ofNat (ev hv : Bool) :
    mdData ev hv (BitVec.ofNat 4 bits.length) (BitVec.ofNat 8 (msbVal bits)) =
      BitVec.ofNat 32 (2 ^ 31 * ev.toNat + 2 ^ 30 * hv.toNat + 2 ^ 24 * bits.length + msbVal bits) := by
  rw [← mdData_toNat_of_length_le hlen, BitVec.ofNat_toNat, BitVec.setWidth_eq]

/-- The host reads the decoded bits out of the response. -/
theorem deliveredBits_mdData (c : RCode) (ev hv : Bool) :
    deliveredBits ⟨c, mdData ev hv (BitVec.ofNat 4 bits.length) (BitVec.ofNat 8 (msbVal bits))⟩ = bits := by
  have hcount : ((mdData ev hv (BitVec.ofNat 4 bits.length) (BitVec.ofNat 8 (msbVal bits))).extractLsb' 24 4).toNat =
      bits.length := by
    have hval := msbVal_lt_of_length_le hlen
    rw [BitVec.extractLsb'_toNat, mdData_toNat_of_length_le hlen, Nat.shiftRight_eq_div_pow]
    omega
  rw [deliveredBits, hcount]
  refine lowBits_of_getLsbD [] bits fun j hj => ?_
  have hlow : j < 8 := by omega
  simp only [mdData, BitVec.getLsbD_append, BitVec.getLsbD_ofNat, hlow, decide_true, if_true, Bool.true_and,
    List.nil_append]

end DecodedBits

/-- A response with no data delivers nothing. -/
theorem deliveredBits_zero (c : RCode) : deliveredBits ⟨c, 0#32⟩ = [] := by
  simp [deliveredBits, lowBits]

theorem State.held_length_le (s : State) : s.held.length ≤ 1 := by
  rw [State.held]
  split <;> simp

/-- A chunk gives at most eight bits (41_manchester.md R80). -/
theorem decodedBits_length_le {es : BitSeq} (hle : es.length ≤ 16) (s : State) :
    (s.decodedBits (s.held ++ es)).length ≤ 8 := by
  have haccepted := accepted_length_le (pairsOf (s.held ++ es)) s
  have hheld := s.held_length_le
  rw [pairsOf_length, List.length_append] at haccepted
  rw [State.decodedBits, List.length_map]
  omega

theorem seqF_ne_nil {n : Nat} {d : Half} (hops : FeedOperands n d) : seqF n d ≠ [] :=
  List.ne_nil_of_length_pos ((seqF_length n d).symm ▸ hops.1)

/-- MD.FEED of an open decoder: the response holds what the loop decoded (41_manchester.md R80). -/
theorem exec_mdFeed_delivers {n : Nat} {d : Half} {s : State} (hops : FeedOperands n d) (hdone : s.done = false) :
    ∃ v, exec (.mdFeed n d) s = .next ((mdRun (seqF n d) s).1.respond .ok v) ∧
      deliveredBits ⟨.ok, v⟩ = (mdRun (seqF n d) s).2 := by
  have hlen : (mdRun (seqF n d) s).2.length ≤ 8 := by
    rw [mdRun_eq (.inl (seqF_ne_nil hops))]
    exact decodedBits_length_le ((seqF_length n d).trans_le hops.2.1) s
  exact ⟨_, exec_mdFeed_open n d s hdone, deliveredBits_mdData hlen .ok _ _⟩

theorem acceptWord_mdFeed {c : BitSeq} {s : State} (hpos : 1 ≤ c.length) (hle : c.length ≤ 16)
    (hdone : s.done = false) :
    ∃ v, acceptWord (encode (Asm.feedSeq .mdFeed c)) s = .next ((mdRun c s).1.respond .ok v) ∧
      deliveredBits ⟨.ok, v⟩ = (mdRun c s).2 := by
  have hops := feedOperands_val16 hpos hle
  have hfeed := exec_mdFeed_delivers hops hdone
  rw [seqF_val16 hle] at hfeed
  rwa [acceptWord_command _ s _ (decode_encode (i := Asm.feedSeq .mdFeed c) hops)]

/-- Whatever the cut, the chunks run the loop over their sequence (41_manchester.md R85). -/
theorem transcript_mdFeeds {cs : List BitSeq} {s : State} (hcut : IsCut cs) (hdone : s.done = false) :
    (∃ c v, (transcript (feedWords .mdFeed cs) s).1 = (mdRun cs.flatten s).1.respond c v) ∧
      ((transcript (feedWords .mdFeed cs) s).2.map deliveredBits).flatten = (mdRun cs.flatten s).2 := by
  induction cs generalizing s with
  | nil => exact ⟨⟨s.rcode, s.rdata, rfl⟩, rfl⟩
  | cons c cs ih =>
    obtain ⟨⟨hpos, hle⟩, hcut'⟩ := List.forall_mem_cons.mp hcut
    obtain ⟨v, haccept, hdelivered⟩ := acceptWord_mdFeed hpos hle hdone
    obtain ⟨-, -, hdone', -⟩ := mdRun_frame c s
    have hopen : ((mdRun c s).1.respond .ok v).done = false := hdone'.trans hdone
    obtain ⟨⟨code, v', hstate⟩, hbits⟩ := ih hcut' hopen
    rw [mdRun_respond, feedWords] at hstate hbits
    rw [feedWords, List.map_cons, transcript_cons_fst haccept, transcript_cons_snd haccept, List.map_cons,
      List.flatten_cons, List.flatten_cons, mdRun_append, hstate, hbits]
    exact ⟨⟨code, v', State.respond_respond _ _ _ _ _⟩, congrArg (· ++ _) hdelivered⟩

theorem acceptWord_mdFeed_closed {c : BitSeq} {s : State} (hpos : 1 ≤ c.length) (hle : c.length ≤ 16)
    (hdone : s.done = true) : acceptWord (encode (Asm.feedSeq .mdFeed c)) s = .next (s.rejectCommand .closed) := by
  have hdecode := decode_encode (i := Asm.feedSeq .mdFeed c) (feedOperands_val16 hpos hle)
  rw [acceptWord_command _ s _ hdecode, Asm.feedSeq, exec_mdFeed_closed _ _ s hdone]

/-- After RX.END the chunks are refused and deliver nothing (41_manchester.md R81). -/
theorem transcript_mdFeeds_closed {cs : List BitSeq} {s : State} (hcut : IsCut cs) (hdone : s.done = true) :
    (∃ c v, (transcript (feedWords .mdFeed cs) s).1 = s.respond c v) ∧
      ((transcript (feedWords .mdFeed cs) s).2.map deliveredBits).flatten = [] := by
  induction cs generalizing s with
  | nil => exact ⟨⟨s.rcode, s.rdata, rfl⟩, rfl⟩
  | cons c cs ih =>
    obtain ⟨⟨hpos, hle⟩, hcut'⟩ := List.forall_mem_cons.mp hcut
    have haccept := acceptWord_mdFeed_closed hpos hle hdone
    have hclosed : (s.rejectCommand .closed).done = true := hdone
    obtain ⟨⟨code, v, hstate⟩, hbits⟩ := ih hcut' hclosed
    rw [feedWords] at hstate hbits
    rw [feedWords, List.map_cons, transcript_cons_fst haccept, transcript_cons_snd haccept, List.map_cons,
      List.flatten_cons, hstate, hbits, List.append_nil]
    exact ⟨⟨code, v, State.respond_respond _ _ _ _ _⟩, deliveredBits_zero .closed⟩

theorem acceptWord_rxClr (s : State) : acceptWord (encode .rxClr) s = .next (s.clearRx.respond .ok 0#32) := by
  rw [acceptWord_command _ s .rxClr (decode_encode (i := .rxClr) trivial), exec_rxClr]

theorem acceptWord_rxEnd (s : State) : acceptWord (encode .rxEnd) s = .next (s.endRx.respond .ok s.endRx.vw) := by
  rw [acceptWord_command _ s .rxEnd (decode_encode (i := .rxEnd) trivial), exec_rxEnd]

/-- RX.CLR and the chunks: the loop runs over the sequence from a cleared channel. -/
theorem transcript_rxClr_mdFeeds {cs : List BitSeq} (hcut : IsCut cs) (s : State) :
    (∃ c v, (transcript (encode .rxClr :: feedWords .mdFeed cs) s).1 = (mdRun cs.flatten s.clearRx).1.respond c v) ∧
      ((transcript (encode .rxClr :: feedWords .mdFeed cs) s).2.tail.map deliveredBits).flatten =
        (mdRun cs.flatten s.clearRx).2 := by
  have hopen : (s.clearRx.respond .ok 0#32).done = false := rfl
  obtain ⟨⟨c, v, hstate⟩, hbits⟩ := transcript_mdFeeds hcut hopen
  rw [mdRun_respond] at hstate hbits
  rw [transcript_cons_fst (acceptWord_rxClr s), transcript_cons_snd (acceptWord_rxClr s), List.tail_cons, hstate]
  exact ⟨⟨c, v, State.respond_respond _ _ _ _ _⟩, hbits⟩

/-- RX.END after them stores the verdict and delivers no bit of its own. -/
theorem transcript_receiveRun_mdFeed {cs : List BitSeq} (hcut : IsCut cs) (s : State) :
    (∃ c v, (transcript (receiveRun .mdFeed cs) s).1 = (mdRun cs.flatten s.clearRx).1.endRx.respond c v) ∧
      ((transcript (receiveRun .mdFeed cs) s).2.tail.dropLast.map deliveredBits).flatten =
        (mdRun cs.flatten s.clearRx).2 := by
  obtain ⟨⟨c, v, hstate⟩, hbits⟩ := transcript_rxClr_mdFeeds hcut s
  rw [receiveRun, ← List.cons_append, transcript_append]
  constructor
  · rw [transcript_cons_fst (acceptWord_rxEnd _), hstate, State.endRx_respond]
    exact ⟨_, _, rfl⟩
  · rw [transcript_cons_snd (acceptWord_rxClr s), List.tail_cons] at hbits
    rw [transcript_cons_snd (acceptWord_rxClr s), transcript_cons_snd (acceptWord_rxEnd _), List.cons_append,
      List.tail_cons, transcript, List.dropLast_concat, hbits]

end Sys2Proof.Machine

namespace Sys2Proof.Claims

open Sys2Proof.Machine Sys2Proof.Reference Sys2Proof.Harness

/-- Settles O20: the loop in closed form, with the sum that RDATA is, for the chunk that the command carries. -/
theorem mdFeedCompletes : Obligations.MdFeedCompletes := by
  unfold Obligations.MdFeedCompletes
  refine ⟨feedWord_of_format_f (by decide) (fun _ _ h => h) (fun _ _ => rfl) (by decide),
    fun n d s hops => ⟨exec_mdFeed_closed n d s, fun hdone => ?_⟩⟩
  have hlen := decodedBits_length_le ((seqF_length n d).trans_le hops.2.1) s
  rw [exec_mdFeed_open n d s hdone, mdRun_eq (.inl (seqF_ne_nil hops))]
  dsimp only
  rw [mdData_eq_ofNat hlen, fdRun_eq]
  rfl

/-- Settles O47: both cuts run the loop over the one sequence, or both are refused after RX.END. -/
theorem mdFeedChunkingIndependent : Obligations.MdFeedChunkingIndependent := by
  unfold Obligations.MdFeedChunkingIndependent
  intro cs ds s hcs hds hsame a b
  cases hdone : s.done with
  | false =>
    obtain ⟨⟨c, v, ha⟩, habits⟩ := transcript_mdFeeds hcs hdone
    obtain ⟨⟨c', v', hb⟩, hbbits⟩ := transcript_mdFeeds hds hdone
    rw [hsame] at ha habits
    exact ⟨by rw [ha, hb]; rfl, habits.trans hbbits.symm⟩
  | true =>
    obtain ⟨⟨c, v, ha⟩, habits⟩ := transcript_mdFeeds_closed hcs hdone
    obtain ⟨⟨c', v', hb⟩, hbbits⟩ := transcript_mdFeeds_closed hds hdone
    exact ⟨by rw [ha, hb]; rfl, habits.trans hbbits.symm⟩

/-- Settles O49: once a pair is recorded the loop decodes nothing, so it pushes nothing and delivers nothing. -/
theorem noBitFromOrAfterInvalidPair : Obligations.NoBitFromOrAfterInvalidPair := by
  unfold Obligations.NoBitFromOrAfterInvalidPair
  refine ⟨fun n d s t hops hev hexec => ?_, fun e s hhv he => ?_⟩
  · cases hdone : s.done with
    | true =>
      rw [exec_mdFeed_closed n d s hdone] at hexec
      cases hexec
      exact ⟨rfl, rfl, rfl, deliveredBits_zero .closed, hev⟩
    | false =>
      obtain ⟨v, hfeed, hdelivered⟩ := exec_mdFeed_delivers hops hdone
      rw [mdRun_of_ev (seqF_ne_nil hops) hev] at hfeed hdelivered
      rw [hfeed] at hexec
      cases hexec
      exact ⟨rfl, rfl, rfl, hdelivered, afterPairs_ev_of_ev hev _⟩
  · obtain ⟨hhv', -⟩ | ⟨-, hev, h⟩ | ⟨-, -, he', -⟩ | ⟨-, -, -, h⟩ := mdStep_cases e s
    · exact absurd (hhv.symm.trans hhv') (by decide)
    · rw [h]
      exact ⟨rfl, hev⟩
    · exact absurd (he.symm.trans he') (by simp)
    · rw [h]
      exact ⟨rfl, rfl⟩

end Sys2Proof.Claims

/-! The receive channel after RX.CLR and an encoded sequence, against `decode` (41_manchester.md R75, R84). -/

namespace Sys2Proof.Machine

open Sys2Proof.Claims

/-- From a cleared channel the bits decoded are those of all pairs before the first invalid one. -/
theorem mdRun_clearRx (e : BitSeq) (s : State) :
    mdRun e s.clearRx =
      (fdRun ((goodPairs (pairsOf e)).map Prod.snd) (s.clearRx.afterPairs e), (goodPairs (pairsOf e)).map Prod.snd) :=
  mdRun_of_no_half rfl rfl e

/-- The disassembler leaves the decoder alone (42_frame.md R104). -/
theorem mdRun_clearRx_decoder (e : BitSeq) (s : State) :
    SameDecoder (mdRun e s.clearRx).1 (s.clearRx.afterPairs e) := by
  rw [mdRun_clearRx]
  obtain ⟨-, -, hhv, hh, hpidx, hev, hepos, heobs, -⟩ :=
    fdRun_frame ((goodPairs (pairsOf e)).map Prod.snd) (s.clearRx.afterPairs e)
  exact ⟨hhv, hh, hpidx, hev, hepos, heobs⟩

theorem mdRun_clearRx_hv_iff (e : BitSeq) (s : State) : (mdRun e s.clearRx).1.hv = true ↔ e.length % 2 = 1 := by
  obtain ⟨hhv, -⟩ := mdRun_clearRx_decoder e s
  rw [hhv, ← halfOf_isSome_iff, State.afterPairs]

theorem mdRun_clearRx_pidx (e : BitSeq) (s : State) : (mdRun e s.clearRx).1.pidx = saturated (e.length / 2) := by
  obtain ⟨-, -, hpidx, -⟩ := mdRun_clearRx_decoder e s
  rw [hpidx, ← pairsOf_length, State.afterPairs]
  exact congrArg saturated (Nat.zero_add _)

theorem mdRun_clearRx_ev_iff (e : BitSeq) (s : State) :
    (mdRun e s.clearRx).1.ev = true ↔ (goodPairs (pairsOf e)).length < (pairsOf e).length := by
  obtain ⟨-, -, -, hev, -⟩ := mdRun_clearRx_decoder e s
  rw [hev, State.afterPairs, finds_of_not_ev s.clearRx_ev, State.clearRx_ev, Bool.false_or, decide_eq_true_iff]

/-- The first invalid pair is recorded with its index. -/
theorem mdRun_clearRx_record {e : BitSeq} (hinvalid : (goodPairs (pairsOf e)).length < (pairsOf e).length) (s : State) :
    (mdRun e s.clearRx).1.epos = saturated (goodPairs (pairsOf e)).length ∧
      (mdRun e s.clearRx).1.eobs = pairBits ((pairsOf e).getD (goodPairs (pairsOf e)).length (false, false)) := by
  obtain ⟨-, -, -, -, hepos, heobs⟩ := mdRun_clearRx_decoder e s
  have hfinds : s.clearRx.finds (pairsOf e) = true := by
    rw [finds_of_not_ev s.clearRx_ev, decide_eq_true hinvalid]
  rw [hepos, heobs, State.afterPairs, hfinds, accepted_of_not_ev s.clearRx_ev]
  exact ⟨congrArg saturated (Nat.zero_add _), rfl⟩

theorem mdRun_clearRx_fcnt (e : BitSeq) (s : State) :
    (mdRun e s.clearRx).1.fcnt = saturated (mdRun e s.clearRx).2.length := by
  rw [mdRun_clearRx, fdRun_eq]
  exact congrArg saturated (Nat.zero_add _)

/-! The verdict by the decoder's elements (42_frame.md R98, R99). -/

theorem verdict_of_hv {s : State} (hhv : s.hv = true) : s.verdict = .oddLength := if_pos hhv

theorem verdict_of_ev {s : State} (hhv : ¬ s.hv = true) (hev : s.ev = true) : s.verdict = .invalidPair := by
  rw [State.verdict, if_neg hhv, if_pos hev]

theorem verdict_of_no_error {s : State} (hhv : ¬ s.hv = true) (hev : ¬ s.ev = true) :
    s.verdict = .matched ∨ s.verdict = .mismatch ∨ s.verdict = .tooShort := by
  rw [State.verdict, if_neg hhv, if_neg hev]
  split_ifs <;> simp

/-- OBS of the verdict word (10_state.md R32). -/
theorem vw_extract_obs (s : State) : s.vw.extractLsb' 5 2 = s.obs := by
  apply BitVec.eq_of_getLsbD_eq
  intro j hj
  rw [State.vw, BitVec.getLsbD_extractLsb', BitVec.getLsbD_setWidth, BitVec.getLsbD_append, BitVec.getLsbD_append,
    if_neg (by omega), if_neg (by omega), decide_eq_true hj, decide_eq_true (by omega), Bool.true_and, Bool.true_and,
    show 5 + j - 4 - 1 = j by omega]

/-- What the receive sequence leaves: the verdict of the channel as the loop left it, and the channel as it was. -/
theorem receiveRun_mdFeed_elements {cs : List BitSeq} (hcut : IsCut cs) (s : State) :
    (transcript (receiveRun .mdFeed cs) s).1.verd = (mdRun cs.flatten s.clearRx).1.verdict ∧
      (transcript (receiveRun .mdFeed cs) s).1.epos = (mdRun cs.flatten s.clearRx).1.epos ∧
      (transcript (receiveRun .mdFeed cs) s).1.eobs = (mdRun cs.flatten s.clearRx).1.eobs ∧
      (transcript (receiveRun .mdFeed cs) s).1.tail = (mdRun cs.flatten s.clearRx).1.tail ∧
      (transcript (receiveRun .mdFeed cs) s).1.rxcrc = (mdRun cs.flatten s.clearRx).1.rxcrc ∧
      (transcript (receiveRun .mdFeed cs) s).1.fcnt = (mdRun cs.flatten s.clearRx).1.fcnt := by
  obtain ⟨⟨c, v, ht⟩, -⟩ := transcript_receiveRun_mdFeed hcut s
  obtain ⟨-, -, hopen, -⟩ := mdRun_frame cs.flatten s.clearRx
  rw [State.endRx_of_open (hopen.trans s.clearRx_done)] at ht
  rw [ht]
  exact ⟨rfl, rfl, rfl, rfl, rfl, rfl⟩

end Sys2Proof.Machine

namespace Sys2Proof.Claims

open Sys2Proof.Machine Sys2Proof.Reference Sys2Proof.Harness

/-- Settles O46: the half held and the pairs counted are those of the whole sequence. -/
theorem decoderCountsBits : Obligations.DecoderCountsBits := by
  unfold Obligations.DecoderCountsBits
  intro cs s hcut t
  obtain ⟨⟨c, v, ht⟩, -⟩ := transcript_rxClr_mdFeeds hcut s
  have hhv : t.hv = (mdRun cs.flatten s.clearRx).1.hv := (congrArg State.hv ht).trans (State.respond_hv c v _)
  have hpidx : t.pidx = (mdRun cs.flatten s.clearRx).1.pidx := (congrArg State.pidx ht).trans (State.respond_pidx c v _)
  rw [hhv, hpidx, mdRun_clearRx_pidx, saturated_toNat]
  exact ⟨mdRun_clearRx_hv_iff _ s, rfl⟩

/-- Settles O48: the verdict tests HV and EV in the order in which `decode` tests the length and the pairs. -/
theorem decoderComputesDecode : Obligations.DecoderComputesDecode := by
  unfold Obligations.DecoderComputesDecode
  intro cs s hcut e run t
  have hbits : (run.2.tail.dropLast.map deliveredBits).flatten = (mdRun e s.clearRx).2 :=
    (transcript_receiveRun_mdFeed hcut s).2
  obtain ⟨hverd, hepos, heobs, -, -, hfcnt⟩ : t.verd = (mdRun e s.clearRx).1.verdict ∧
      t.epos = (mdRun e s.clearRx).1.epos ∧ t.eobs = (mdRun e s.clearRx).1.eobs ∧ _ ∧ _ ∧
      t.fcnt = (mdRun e s.clearRx).1.fcnt := receiveRun_mdFeed_elements hcut s
  have hhv := mdRun_clearRx_hv_iff e s
  have hev := mdRun_clearRx_ev_iff e s
  by_cases hodd : e.length % 2 = 1
  · rw [verdict_of_hv (hhv.mpr hodd)] at hverd
    simp [decodeBits_of_odd hodd, hverd]
  have heven : e.length % 2 = 0 := by omega
  by_cases hinvalid : (goodPairs (pairsOf e)).length < (pairsOf e).length
  · obtain ⟨hpos, hobs⟩ := mdRun_clearRx_record hinvalid s
    rw [verdict_of_ev (hhv.not.mpr hodd) (hev.mpr hinvalid)] at hverd
    have hvw : t.vw.extractLsb' 5 2 = t.eobs := by rw [vw_extract_obs, State.obs, if_pos hverd]
    rw [decodeBits_of_even heven, if_pos hinvalid, hvw, heobs, hepos, hpos, hobs, hverd]
    simp
  · have hresult := verdict_of_no_error (hhv.not.mpr hodd) (hev.not.mpr hinvalid)
    rw [← hverd] at hresult
    rw [decodeBits_of_even heven, if_neg hinvalid, hfcnt, mdRun_clearRx_fcnt, hbits, mdRun_clearRx]
    obtain h | h | h := hresult <;> simp [h]

end Sys2Proof.Claims

/-! What every step keeps about the elements of the receive channel (10_state.md R18): neither a response nor the port
is one of them, so the commands' effects and the reset are all that a step can do to it. -/

namespace Sys2Proof.Machine

open Sys2Proof.Claims

/-- A property of the receive channel that holds at reset and that every command's effect keeps is kept by every
step. -/
theorem step_keeps_of_sameRx {P : State → Prop} (hsame : ∀ {s t : State}, P s → SameRx s t → P t)
    (hreset : P State.reset) (heffect : ∀ {s : State} (i : Instr), P s → P (s.effect i)) {s t : State} (hs : P s)
    (hstep : step s = .next t) : P t := by
  have hport (moves : List HostMove) {u : State} (hu : P u) : P { u with port := moves } :=
    hsame hu (by simp [SameRx])
  have hrespond (c : RCode) (v : Word) {u : State} (hu : P u) : P (u.respond c v) := hsame hu (by simp [SameRx])
  match hmoves : s.port with
  | [] =>
    rw [step_idle hmoves] at hstep
    cases hstep
    exact hs
  | .command w :: rest =>
    rw [step_command hmoves] at hstep
    obtain ⟨i, c, v, -, rfl⟩ | ⟨c, v, rfl⟩ := acceptWord_cases hstep
    · exact hrespond c v (heffect i (hport rest hs))
    · exact hrespond c v (hport rest hs)
  | .reset inFlight :: rest =>
    rw [step_reset hmoves] at hstep
    cases hstep
    exact hport rest hreset

/-! The stored verdict (42_frame.md R97, 10_state.md R27). -/

/-- The verdict reads HV, EV, FCNT, TAIL and RXCRC only (42_frame.md R98, R99). -/
theorem verdict_of_sameRx {s t : State} (hrx : SameRx s t) : t.verdict = s.verdict := by
  obtain ⟨hhv, -, -, hev, -, -, htail, hrxcrc, hfcnt, -, -⟩ := hrx
  rw [State.verdict, State.verdict, hhv, hev, htail, hrxcrc, hfcnt]

theorem verdictStands_of_sameRx {s t : State} (hs : s.VerdictStands) (hrx : SameRx s t) : t.VerdictStands := by
  have hverdict := verdict_of_sameRx hrx
  obtain ⟨-, -, -, -, -, -, -, -, -, hdone, hverd⟩ := hrx
  intro ht
  rw [← hverd, hverdict]
  exact hs (hdone.trans ht)

/-- While the sequence is open no verdict is stored. -/
theorem verdictStands_of_open {s : State} (hdone : s.done = false) : s.VerdictStands :=
  fun h => absurd (hdone.symm.trans h) Bool.false_ne_true

/-- RX.END stores the verdict of the channel, which it does not change. -/
theorem verdictStands_endRx {s : State} (hs : s.VerdictStands) : s.endRx.VerdictStands := by
  cases hdone : s.done with
  | true => rwa [State.endRx_of_done hdone]
  | false =>
    rw [State.endRx_of_open hdone]
    exact fun _ => rfl

/-- The feeds leave DONE as it is (10_state.md R27). -/
theorem effect_done_of_feed {i : Instr} (hfeed : i.mnemonic = "MD.FEED" ∨ i.mnemonic = "FD.FEED") (s : State) :
    (s.effect i).done = s.done := by
  have hnot : i.mnemonic ∉ Element.done.writers := by obtain h | h := hfeed <;> simp [h, Element.writers]
  exact ofBool_inj (setWidth_inj (by decide) (State.effect_element i s hnot))

/-- A feed is refused once the sequence is ended (41_manchester.md R81), and while it is open no verdict is stored. -/
theorem verdictStands_effect {s : State} (i : Instr) (hs : s.VerdictStands) : (s.effect i).VerdictStands := by
  cases i with
  | nop | faTail | menc | rd => exact hs
  | crcClr | crcFeed => exact verdictStands_of_sameRx hs (by simp [State.effect, SameRx])
  | rxClr | srst => exact verdictStands_of_open rfl
  | rxEnd => exact verdictStands_endRx hs
  | mdFeed n d | fdFeed n d =>
    cases hdone : s.done with
    | true => rwa [State.effect, if_pos hdone]
    | false => exact verdictStands_of_open ((effect_done_of_feed (by simp [Instr.mnemonic]) s).trans hdone)

end Sys2Proof.Machine

namespace Sys2Proof.Claims

open Sys2Proof.Machine

/-- Settles O37: a feed is refused after RX.END, RX.END stores the verdict of the channel as it stands, and a clear
opens the sequence again. -/
theorem stepKeepsStoredVerdict : Obligations.StepKeepsStoredVerdict := by
  unfold Obligations.StepKeepsStoredVerdict
  intro s t hs hstep
  exact step_keeps_of_sameRx verdictStands_of_sameRx (verdictStands_of_open rfl) verdictStands_effect hs hstep

end Sys2Proof.Claims

/-! The commands of the frame assembler and disassembler (42_frame.md R90, R95 to R99). -/

namespace Sys2Proof.Machine

open Sys2Proof.Claims

/-- Everything the verdict can be: the tests of 42_frame.md R98 and R99, in their order. -/
theorem verdict_cases (s : State) :
    (s.verdict = .oddLength ∧ s.hv = true) ∨
    (s.verdict = .invalidPair ∧ s.hv = false ∧ s.ev = true) ∨
    (s.verdict = .tooShort ∧ s.hv = false ∧ s.ev = false ∧ s.fcnt.toNat < 17) ∨
    (s.verdict = .matched ∧ s.hv = false ∧ s.ev = false ∧ 17 ≤ s.fcnt.toNat ∧ s.tail = s.rxcrc) ∨
    (s.verdict = .mismatch ∧ s.hv = false ∧ s.ev = false ∧ 17 ≤ s.fcnt.toNat ∧ s.tail ≠ s.rxcrc) := by
  unfold State.verdict Config.minFrame
  split_ifs <;> simp_all

/-- The verdict word as a number (10_state.md R32, 60_exceptions.md R131). -/
theorem vw_eq_ofNat (s : State) : s.vw = BitVec.ofNat 32 (vwNumber s.verd s.eobs) := by
  have hobs := s.eobs.isLt
  apply BitVec.eq_of_toNat_eq
  rw [State.vw, State.obs, BitVec.toNat_setWidth, append_toNat, append_toNat]
  cases hverd : s.verd with
  | invalidPair => simp [vwNumber, Verdict.det, Verdict.code]; omega
  | none | matched | mismatch | tooShort | oddLength => simp [vwNumber, Verdict.det, Verdict.code]

theorem exec_rxEnd_open {s : State} (hdone : s.done = false) :
    exec .rxEnd s = .next { s with verd := s.verdict, done := true, rcode := .ok,
                                   rdata := BitVec.ofNat 32 (vwNumber s.verdict s.eobs) } := by
  rw [exec_rxEnd, State.endRx_of_open hdone, vw_eq_ofNat]
  rfl

theorem exec_rxEnd_closed {s : State} (hdone : s.done = true) :
    exec .rxEnd s = .next (s.answered .ok (BitVec.ofNat 32 (vwNumber s.verd s.eobs))) := by
  rw [exec_rxEnd, State.endRx_of_done hdone, vw_eq_ofNat]
  rfl

end Sys2Proof.Machine

namespace Sys2Proof.Claims

open Sys2Proof.Machine

/-- Settles O21: the loop in closed form, for the bits that the command carries. -/
theorem fdFeedCompletes : Obligations.FdFeedCompletes := by
  unfold Obligations.FdFeedCompletes
  refine ⟨feedWord_of_format_f (by decide) (fun _ _ h => h) (fun _ _ => rfl) (by decide),
    fun n d s _ => ⟨exec_fdFeed_closed n d s, fun hdone => ?_⟩⟩
  rw [exec_fdFeed_open n d s hdone, fdRun_eq]
  rfl

/-- Settles O22: the verdict stored is the one of the first test that applies, so each test's verdict excludes the
others. -/
theorem rxEndCompletes : Obligations.RxEndCompletes := by
  unfold Obligations.RxEndCompletes
  refine ⟨onlyWord_of_format_z trivial rfl (by decide), fun s => ⟨fun hdone => ⟨s.verdict, exec_rxEnd_open hdone, ?_⟩,
    exec_rxEnd_closed⟩⟩
  obtain ⟨hv, hhv⟩ | ⟨hv, hhv, hev⟩ | ⟨hv, hhv, hev, hshort⟩ | ⟨hv, hhv, hev, hlong, hequal⟩ |
    ⟨hv, hhv, hev, hlong, hdiffer⟩ := verdict_cases s
  · simp [hv, hhv]
  · simp [hv, hhv, hev]
  · simp [hv, hhv, hev, hshort]
  · simp [hv, hhv, hev, hlong, hequal]
  · simp [hv, hhv, hev, hlong, hdiffer]

/-- Settles O17: the answer is CRC or EMPTY, by CNE; FA.TAIL has format Z. -/
theorem faTailCompletes : Obligations.FaTailCompletes := by
  unfold Obligations.FaTailCompletes
  exact ⟨onlyWord_of_format_z trivial rfl (by decide), fun s => ⟨exec_faTail_ok s, exec_faTail_empty s⟩⟩

/-- Settles O19: the clear, answered; RX.CLR has format Z. -/
theorem rxClrCompletes : Obligations.RxClrCompletes := by
  unfold Obligations.RxClrCompletes
  exact ⟨onlyWord_of_format_z trivial rfl (by decide), exec_rxClr⟩

end Sys2Proof.Claims

/-! The disassembler's three elements against `verify_frame` (42_frame.md R92, R100): a channel that holds a frame has
the verdict of that frame. -/

namespace Sys2Proof.Machine

open Sys2Proof.Claims Sys2Proof.Reference

/-- The disassembler holds the frame `f`: its last bits stand in the delay line, the others went through the LFSR
(10_state.md R24 to R26). -/
abbrev HoldsFrame (f : BitSeq) (s : State) : Prop :=
  s.tail = val16 f ∧ s.rxcrc = crc16 (f.take (f.length - 16)) ∧ s.fcnt = saturated f.length

/-- A frame pushed into a cleared disassembler is held; the decoder's elements make no difference. -/
theorem holdsFrame_fdRun (f : BitSeq) {s : State} (htail : s.tail = 0x0000#16) (hrxcrc : s.rxcrc = 0x0000#16)
    (hfcnt : s.fcnt = 0#32) : HoldsFrame f (fdRun f s) := by
  have hclear := fdRun_eq f s.clearRx
  have htail' := (fdRun_clearRx_tail f s).symm.trans (congrArg State.tail hclear)
  have hrxcrc' := (fdRun_clearRx_rxcrc f s).symm.trans (congrArg State.rxcrc hclear)
  have hfcnt' := (fdRun_clearRx_fcnt f s).symm.trans (congrArg State.fcnt hclear)
  rw [HoldsFrame, htail', hrxcrc', hfcnt', fdRun_eq]
  simp [pushTail, pushCrc, pushCount, htail, hrxcrc, hfcnt]

end Sys2Proof.Machine

namespace Sys2Proof.Reference

open Sys2Proof.Machine

/-- `verify_frame`'s result as a result of `decode_and_verify` (42_frame.md R101). -/
def VerifyResult.asVerification : VerifyResult → Verification
  | .tooShort => .tooShort
  | .matched rc cc => .matched rc cc
  | .mismatch rc cc => .mismatch rc cc

/-- The verdict code of `verify_frame`'s result (60_exceptions.md R131). -/
def VerifyResult.verdict (r : VerifyResult) : Verdict := r.asVerification.verdict

@[simp] theorem VerifyResult.verdict_tooShort : VerifyResult.tooShort.verdict = .tooShort := rfl
@[simp] theorem VerifyResult.verdict_matched (rc cc : Half) : (VerifyResult.matched rc cc).verdict = .matched := rfl
@[simp] theorem VerifyResult.verdict_mismatch (rc cc : Half) : (VerifyResult.mismatch rc cc).verdict = .mismatch := rfl

theorem verifyFrame_of_short {f : BitSeq} (hshort : f.length < 17) : verifyFrame f = .tooShort := if_pos hshort

/-- `verify_frame` of a long frame compares its last 16 bits, all that fit the value of the whole frame, with the CRC of
the others (42_frame.md R92). -/
theorem verifyFrame_of_long {f : BitSeq} (hlong : 17 ≤ f.length) :
    verifyFrame f =
      if val16 f = crc16 (f.take (f.length - 16)) then .matched (val16 f) (crc16 (f.take (f.length - 16)))
      else .mismatch (val16 f) (crc16 (f.take (f.length - 16))) := by
  have hlast : (f.drop (f.length - 16)).length = 16 := by
    rw [List.length_drop]
    omega
  have hval : val16 f = val16 (f.drop (f.length - 16)) := by
    rw [← val16_append (s := f.take (f.length - 16)) hlast, List.take_append_drop]
  have hnot : ¬ f.length < Config.minFrame := Nat.not_lt.mpr hlong
  rw [verifyFrame, if_neg hnot, hval]

/-- `decode_and_verify` of what `decode` accepts is `verify_frame` of the decoded frame (42_frame.md R101). -/
theorem decodeAndVerify_of_decodeBits {e f : BitSeq} (hdecode : decodeBits e = .ok f) :
    decodeAndVerify e = (verifyFrame f).asVerification := by
  simp only [decodeAndVerify, hdecode]
  cases verifyFrame f <;> rfl

theorem asVerification_ne_invalidPair (r : VerifyResult) (k : Nat) (p : Bool × Bool) :
    r.asVerification ≠ .invalidPair k p := by
  cases r <;> simp [VerifyResult.asVerification]

theorem matched_or_mismatch_iff_asVerification (r : VerifyResult) (rc cc : Half) :
    (r = .matched rc cc ∨ r = .mismatch rc cc) ↔
      (r.asVerification = .matched rc cc ∨ r.asVerification = .mismatch rc cc) := by
  cases r <;> simp [VerifyResult.asVerification]

end Sys2Proof.Reference

namespace Sys2Proof.Machine

open Sys2Proof.Claims Sys2Proof.Reference

/-- The verdict on a held frame that was decoded without error is `verify_frame`'s (42_frame.md R98 to R100). -/
theorem verdict_of_holdsFrame {f : BitSeq} {s : State} (hheld : HoldsFrame f s) (hhv : ¬ s.hv = true)
    (hev : ¬ s.ev = true) : s.verdict = (verifyFrame f).verdict := by
  obtain ⟨htail, hrxcrc, hfcnt⟩ := hheld
  have hcount : s.fcnt.toNat < Config.minFrame ↔ f.length < 17 := by
    rw [hfcnt, saturated_toNat, Config.minFrame]
    omega
  rw [State.verdict, if_neg hhv, if_neg hev, htail, hrxcrc]
  by_cases hshort : f.length < 17
  · rw [if_pos (hcount.mpr hshort), verifyFrame_of_short hshort]
    rfl
  · rw [if_neg (hcount.not.mpr hshort), verifyFrame_of_long (Nat.not_lt.mp hshort)]
    split <;> rfl

/-- The two CRC values of a held frame are TAIL and RXCRC (42_frame.md R100). -/
theorem tail_rxcrc_of_verifyFrame {f : BitSeq} {s : State} {rc cc : Half} (hheld : HoldsFrame f s)
    (hresult : verifyFrame f = .matched rc cc ∨ verifyFrame f = .mismatch rc cc) : s.tail = rc ∧ s.rxcrc = cc := by
  obtain ⟨htail, hrxcrc, -⟩ := hheld
  rw [htail, hrxcrc]
  by_cases hshort : f.length < 17
  · rw [verifyFrame_of_short hshort] at hresult
    simp at hresult
  · rw [verifyFrame_of_long (Nat.not_lt.mp hshort)] at hresult
    split at hresult <;> simpa using hresult

/-- What RX.CLR, FD.FEED over a cut and RX.END leave: the verdict on the frame, which the disassembler holds. -/
theorem receiveRun_fdFeed_elements {cs : List BitSeq} (hcut : IsCut cs) (s : State) :
    (transcript (receiveRun .fdFeed cs) s).1.verd = (verifyFrame cs.flatten).verdict ∧
      HoldsFrame cs.flatten (transcript (receiveRun .fdFeed cs) s).1 := by
  obtain ⟨c, v, ht⟩ := transcript_rxClr_fdFeeds hcut s
  have hheld : HoldsFrame cs.flatten (fdRun cs.flatten s.clearRx) := holdsFrame_fdRun _ rfl rfl rfl
  obtain ⟨-, -, hhv, -, -, hev, -, -, hdone, -⟩ := fdRun_frame cs.flatten s.clearRx
  have hverdict := verdict_of_holdsFrame hheld (by simp [hhv]) (by simp [hev])
  rw [receiveRun, ← List.cons_append, transcript_append, transcript_cons_fst (acceptWord_rxEnd _), ht,
    State.endRx_respond, State.endRx_of_open (hdone.trans s.clearRx_done)]
  exact ⟨hverdict, hheld⟩

/-- After RX.CLR and an encoded sequence the disassembler holds the bits decoded. -/
theorem mdRun_clearRx_holdsFrame (e : BitSeq) (s : State) :
    HoldsFrame ((goodPairs (pairsOf e)).map Prod.snd) (mdRun e s.clearRx).1 := by
  rw [mdRun_clearRx]
  exact holdsFrame_fdRun _ rfl rfl rfl

end Sys2Proof.Machine

namespace Sys2Proof.Claims

open Sys2Proof.Machine Sys2Proof.Reference

/-- Settles O51: the channel holds the frame, so its verdict and its CRC values are those of `verify_frame`. -/
theorem disassemblerComputesVerify : Obligations.DisassemblerComputesVerify := by
  unfold Obligations.DisassemblerComputesVerify
  intro cs s hcut f t
  obtain ⟨hverd, hheld⟩ : t.verd = (verifyFrame f).verdict ∧ HoldsFrame f t := receiveRun_fdFeed_elements hcut s
  refine ⟨?_, ?_, ?_, fun rc cc => tail_rxcrc_of_verifyFrame hheld⟩
  all_goals
    rw [hverd]
    cases verifyFrame f <;> simp

/-- Settles O53: an odd length and an invalid pair are the decoder's verdicts; otherwise the disassembler holds the
decoded frame, and the verdict is that of `verify_frame`. -/
theorem receivePathComputesDecodeAndVerify : Obligations.ReceivePathComputesDecodeAndVerify := by
  unfold Obligations.ReceivePathComputesDecodeAndVerify
  intro cs s hcut e t
  obtain ⟨hverd, hepos, heobs, htail, hrxcrc, -⟩ : t.verd = (mdRun e s.clearRx).1.verdict ∧
      t.epos = (mdRun e s.clearRx).1.epos ∧ t.eobs = (mdRun e s.clearRx).1.eobs ∧
      t.tail = (mdRun e s.clearRx).1.tail ∧ t.rxcrc = (mdRun e s.clearRx).1.rxcrc ∧ _ :=
    receiveRun_mdFeed_elements hcut s
  have hhv := mdRun_clearRx_hv_iff e s
  have hev := mdRun_clearRx_ev_iff e s
  rw [hverd, hepos, heobs, htail, hrxcrc]
  by_cases hodd : e.length % 2 = 1
  · rw [verdict_of_hv (hhv.mpr hodd), decodeAndVerify, decodeBits_of_odd hodd]
    simp [Verification.verdict]
  have heven : e.length % 2 = 0 := by omega
  by_cases hinvalid : (goodPairs (pairsOf e)).length < (pairsOf e).length
  · obtain ⟨hpos, hobs⟩ := mdRun_clearRx_record hinvalid s
    rw [verdict_of_ev (hhv.not.mpr hodd) (hev.mpr hinvalid), decodeAndVerify, decodeBits_of_even heven,
      if_pos hinvalid, hpos, hobs]
    simp [Verification.verdict]
  · have hdecode : decodeBits e = .ok ((goodPairs (pairsOf e)).map Prod.snd) :=
      (decodeBits_of_even heven).trans (if_neg hinvalid)
    have hheld := mdRun_clearRx_holdsFrame e s
    rw [verdict_of_holdsFrame hheld (hhv.not.mpr hodd) (hev.not.mpr hinvalid), decodeAndVerify_of_decodeBits hdecode]
    exact ⟨rfl, fun k p h => absurd h (asVerification_ne_invalidPair _ k p),
      fun rc cc h => tail_rxcrc_of_verifyFrame hheld ((matched_or_mismatch_iff_asVerification _ rc cc).mpr h)⟩

end Sys2Proof.Claims

/-! The round trip of a frame (42_frame.md R103). A frame with its own CRC has residue 0, and one flipped bit gives
another residue, since the LFSR step tells its inputs apart. -/

namespace Sys2Proof.Claims

open Sys2Proof.Machine Sys2Proof.Reference Sys2Proof.Harness

theorem length_buildFrame_ge {d : BitSeq} (hne : d ≠ []) : 17 ≤ (buildFrame d).length := by
  have hpos := List.length_pos_of_ne_nil hne
  rw [buildFrame_length]
  omega

/-- An unharmed frame carries the CRC of its data (42_frame.md R87, R92). -/
theorem verifyFrame_buildFrame {d : BitSeq} (hne : d ≠ []) :
    verifyFrame (buildFrame d) = .matched (crc16 d) (crc16 d) := by
  have hlast : (bits16 (crc16 d)).length = 16 := seqF_length 16 _
  have hreceived : val16 (buildFrame d) = crc16 d := by rw [buildFrame, val16_append hlast, val16_bits16]
  have hdata : (buildFrame d).take ((buildFrame d).length - 16) = d := by
    rw [buildFrame_length, Nat.add_sub_cancel, buildFrame, List.take_left]
  rw [verifyFrame_of_long (length_buildFrame_ge hne), hreceived, hdata, if_pos rfl]

/-- A long frame has the verdict of its residue (40_crc16.md R70). -/
theorem verdict_verifyFrame {f : BitSeq} (hlong : 17 ≤ f.length) :
    (verifyFrame f).verdict = if crc16 f = 0x0000#16 then .matched else .mismatch := by
  have hresidue := verifyFrame_matched_iff_crc16 hlong
  split
  · next h =>
    obtain ⟨rc, cc, hmatched⟩ := hresidue.mpr h
    rw [hmatched, VerifyResult.verdict_matched]
  · next h =>
    have hnot := hresidue.not.mpr h
    rw [verifyFrame_of_long hlong] at hnot ⊢
    split at hnot
    · exact absurd ⟨_, _, rfl⟩ hnot
    · next hdiffer => rw [if_neg hdiffer, VerifyResult.verdict_mismatch]

/-- A frame that is encoded and then received has the verdict of `verify_frame` on it (42_frame.md R101). -/
theorem verdict_decodeAndVerify_encodeForTransmission (d : BitSeq) (inject : BitSeq → BitSeq) :
    (decodeAndVerify (encodeForTransmission d inject)).verdict = (verifyFrame (inject (buildFrame d))).verdict := by
  rw [encodeForTransmission, decodeAndVerify_of_decodeBits (decodeBits_encodeBits _), VerifyResult.verdict]

/-! ## One flipped bit -/

theorem flipBit_length (f : BitSeq) (pos : Nat) : (flipBit f pos).length = f.length := by
  rw [flipBit]
  split <;> simp

/-- A frame and the frame with one bit flipped, split at the bit (49_host.md R120). -/
theorem exists_split_at_flip {f : BitSeq} {pos : Nat} (hpos : pos < f.length) :
    ∃ p b q, f = p ++ b :: q ∧ flipBit f pos = p ++ (!b) :: q := by
  have hset : flipBit f pos = f.set pos (!f[pos]) := by
    rw [flipBit, if_pos hpos]
    refine List.ext_getElem (by simp) fun i hi hi' => ?_
    rw [List.getElem_mapIdx, List.getElem_set]
    by_cases h : i = pos
    · subst h; simp
    · simp [h, Ne.symm h]
  refine ⟨f.take pos, f[pos], f.drop (pos + 1), ?_, ?_⟩
  · rw [List.getElem_cons_drop, List.take_append_drop]
  · rw [hset, List.set_eq_take_append_cons_drop, if_pos hpos]

/-- The feedback of R63 depends on the input. -/
theorem crcStep_not_ne (r : Half) (b : Bool) : crcStep r (!b) ≠ crcStep r b := by
  have hdiff : crcStep r (!b) ^^^ crcStep r b = 0x1021#16 := by
    rw [← crcStep_xor, BitVec.xor_self, Bool.not_xor_self]
    decide
  intro h
  rw [h, BitVec.xor_self] at hdiff
  exact absurd hdiff (by decide)

/-- One flipped bit changes the CRC: the registers differ after it, and no later bit makes them equal. -/
theorem crc16_flipBit_ne {f : BitSeq} {pos : Nat} (hpos : pos < f.length) : crc16 (flipBit f pos) ≠ crc16 f := by
  obtain ⟨p, b, q, hf, hflip⟩ := exists_split_at_flip hpos
  rw [hflip, hf, crc16_append, crc16_append, crcRun_cons, crcRun_cons]
  exact fun h => crcStep_not_ne _ b (crcRun_left_inj h)

/-- A frame with one bit flipped has a residue other than 0. -/
theorem verdict_verifyFrame_flipBit {d : BitSeq} {pos : Nat} (hne : d ≠ []) (hpos : pos < (buildFrame d).length) :
    (verifyFrame (flipBit (buildFrame d) pos)).verdict = .mismatch := by
  have hlong : 17 ≤ (flipBit (buildFrame d) pos).length :=
    (length_buildFrame_ge hne).trans_eq (flipBit_length _ pos).symm
  have hresidue := crc16_flipBit_ne hpos
  rw [crc16_buildFrame] at hresidue
  rw [verdict_verifyFrame hlong, if_neg hresidue]

/-- The blind spot: a frame corrupted by the pattern of another frame has residue 0 again (40_crc16.md R71). -/
theorem verdict_verifyFrame_xorSeq_buildFrame {d e : BitSeq} (hne : d ≠ []) (hlen : d.length = e.length) :
    (verifyFrame (xorSeq (buildFrame d) (buildFrame e))).verdict = .matched := by
  have hlen' : (buildFrame d).length = (buildFrame e).length := by rw [buildFrame_length, buildFrame_length, hlen]
  have hlong : 17 ≤ (xorSeq (buildFrame d) (buildFrame e)).length := by
    rw [xorSeq, List.length_zipWith, ← hlen', min_self]
    exact length_buildFrame_ge hne
  rw [verdict_verifyFrame hlong, crc16_xorSeq hlen', crc16_buildFrame, crc16_buildFrame, BitVec.xor_self, if_pos rfl]

/-- Settles O54: the residue of a frame is 0, that of a frame with one bit flipped is not, and the frame of `[0]`
corrupted by that of `[1]` has residue 0 again. -/
theorem roundTripAndSingleFlips : Obligations.RoundTripAndSingleFlips := by
  unfold Obligations.RoundTripAndSingleFlips
  refine ⟨fun d hne => ⟨verifyFrame_buildFrame hne, decodeBits_encodeBits _, ?_⟩, fun d pos hne hpos => ?_,
    [false], buildFrame [true], by decide, by rw [buildFrame_length, buildFrame_length]; rfl,
    List.mem_append_left _ (List.mem_singleton_self true), ?_⟩
  · rw [verdict_decodeAndVerify_encodeForTransmission, id, verifyFrame_buildFrame hne, VerifyResult.verdict_matched]
  · rw [verdict_decodeAndVerify_encodeForTransmission]
    exact verdict_verifyFrame_flipBit hne hpos
  · rw [verdict_decodeAndVerify_encodeForTransmission]
    exact verdict_verifyFrame_xorSeq_buildFrame (by decide) rfl

end Sys2Proof.Claims

/-! The frame assembler (42_frame.md R88, R91): CRC.CLR, CRC.FEED over a cut of the data and FA.TAIL answer the CRC of
the data, which is the frame's last field. -/

namespace Sys2Proof.Claims

open Sys2Proof.Machine Sys2Proof.Reference Sys2Proof.Harness

/-- The bits that the feeds of a cut carry are the sequence. -/
theorem crcBits_feedSeq_flatten {cs : List BitSeq} (hcut : IsCut cs) :
    ((cs.map (Asm.feedSeq .crcFeed)).map crcBits).flatten = cs.flatten := by
  rw [List.map_map]
  congr 1
  exact (List.map_congr_left fun c hc => seqF_val16 (hcut c hc).2).trans (List.map_id cs)

theorem keepsCrc_of_mem_feedSeq {cs : List BitSeq} (hcut : IsCut cs) :
    ∀ i ∈ cs.map (Asm.feedSeq .crcFeed), KeepsCrc i := by
  intro i hi
  obtain ⟨c, hc, rfl⟩ := List.mem_map.mp hi
  obtain ⟨hpos, hle⟩ := hcut c hc
  exact ⟨feedOperands_val16 hpos hle, by simp [Asm.feedSeq], by simp [Asm.feedSeq]⟩

/-- A cut of at least one chunk has at least one bit. -/
theorem flatten_ne_nil_of_isCut {cs : List BitSeq} (hcut : IsCut cs) (hne : cs ≠ []) : cs.flatten ≠ [] := by
  obtain ⟨c, cs, rfl⟩ := List.exists_cons_of_ne_nil hne
  obtain ⟨⟨hpos, -⟩, -⟩ := List.forall_mem_cons.mp hcut
  exact List.append_ne_nil_of_left_ne_nil (List.ne_nil_of_length_pos hpos) _

/-- FA.TAIL after CRC.CLR and the feeds answers the CRC of what was fed (42_frame.md R90, R91). -/
theorem lastResponse_crcFeeds_faTail {cs : List BitSeq} (hcut : IsCut cs) (hne : cs ≠ []) (s : State) :
    lastResponse (transcript (encode .crcClr :: (feedWords .crcFeed cs ++ [encode .faTail])) s).2 =
      ⟨.ok, (crc16 cs.flatten).setWidth 32⟩ := by
  have hfeeds : feedWords .crcFeed cs = (cs.map (Asm.feedSeq .crcFeed)).map encode := by rw [List.map_map]; rfl
  obtain ⟨hcrc, hcne⟩ := transcript_crcClr_crc_cne (keepsCrc_of_mem_feedSeq hcut) s
  rw [crcBits_feedSeq_flatten hcut, ← hfeeds] at hcrc hcne
  have htail := exec_faTail_ok _ (hcne.mpr (flatten_ne_nil_of_isCut hcut hne))
  rw [← List.cons_append, lastResponse_transcript_append_singleton _
    ((acceptWord_command _ _ _ (decode_encode (i := .faTail) trivial)).trans htail), ← hcrc]
  rfl

/-- Settles O52: the answer of FA.TAIL, taken as 16 bits, is the CRC field of the frame; MENC encodes any cut of what
the injection leaves of it. -/
theorem assemblerBuildsTheFrame : Obligations.AssemblerBuildsTheFrame := by
  unfold Obligations.AssemblerBuildsTheFrame
  intro cs s hcut hne d run r
  have hr : r = ⟨.ok, (crc16 d).setWidth 32⟩ := lastResponse_crcFeeds_faTail hcut hne s
  have hfield : (r.data.setWidth 16 : Half) = crc16 d := by
    rw [hr]
    exact BitVec.setWidth_setWidth_of_le _ (by decide)
  refine ⟨hr, by rw [hfield, buildFrame], buildFrame_length d, length_buildFrame_ge (flatten_ne_nil_of_isCut hcut hne),
    encodeBits_length _, fun inject fs hfs hinject => ?_⟩
  rw [mencBits_transcript hfs, hinject, encodeForTransmission]

end Sys2Proof.Claims

/-! Mixed feeds (42_frame.md R104): the disassembler takes the bits of FD.FEED and the bits that MD.FEED decodes as they
come; the decoder takes those of MD.FEED and does not see the disassembler. -/

namespace Sys2Proof.Machine

open Sys2Proof.Claims Sys2Proof.Harness

/-- From `s` to `t` the disassembler took `bits` (42_frame.md R94). -/
abbrev FdTook (bits : BitSeq) (s t : State) : Prop :=
  t.tail = pushTail s bits ∧ t.rxcrc = pushCrc s bits ∧ t.fcnt = pushCount s bits

theorem fdTook_fdRun (bits : BitSeq) (s : State) : FdTook bits s (fdRun bits s) := by
  rw [fdRun_eq]
  exact ⟨rfl, rfl, rfl⟩

theorem fdTook_nil (s : State) : FdTook [] s s := fdTook_fdRun [] s

/-- What is pushed after other bits is pushed after them (42_frame.md R95). -/
theorem FdTook.trans {a b : BitSeq} {s t u : State} (hst : FdTook a s t) (htu : FdTook b t u) :
    FdTook (a ++ b) s u := by
  obtain ⟨htail, hrxcrc, hfcnt⟩ := hst
  rw [FdTook, pushTail, pushCrc, pushCount, htail, hrxcrc, hfcnt] at htu
  obtain ⟨htail', hrxcrc', hfcnt'⟩ := htu
  have hwhole := fdTook_fdRun (a ++ b) s
  rw [fdRun_append, fdRun_eq, fdRun_eq a] at hwhole
  obtain ⟨htail'', hrxcrc'', hfcnt''⟩ := hwhole
  exact ⟨htail'.trans htail'', hrxcrc'.trans hrxcrc'', hfcnt'.trans hfcnt''⟩

/-- MD.FEED pushes the bits that it decodes, and they are those before the first invalid pair (41_manchester.md R80). -/
theorem fdTook_mdRun {es : BitSeq} (hne : es ≠ []) (s : State) : FdTook (mdRun es s).2 s (mdRun es s).1 := by
  rw [mdRun_eq (.inl hne)]
  exact fdTook_fdRun _ (s.afterPairs (s.held ++ es))

/-- The word of a feed in an open sequence: the bits it pushes are in the command or in the response. -/
theorem acceptWord_feed {i : Instr} {s : State} (hfeed : isFeed i) (hdone : s.done = false) :
    ∃ c v, acceptWord (encode i) s = .next ((s.effect i).respond c v) ∧
      FdTook (pushedBits i ⟨c, v⟩) s (s.effect i) := by
  cases i with
  | mdFeed n d =>
    obtain ⟨v, hexec, hdelivered⟩ := exec_mdFeed_delivers hfeed hdone
    have heffect : s.effect (.mdFeed n d) = (mdRun (seqF n d) s).1 := by simp [State.effect, hdone]
    rw [acceptWord_command _ s _ (decode_encode (i := .mdFeed n d) hfeed), heffect]
    refine ⟨.ok, v, hexec, ?_⟩
    rw [pushedBits, hdelivered]
    exact fdTook_mdRun (seqF_ne_nil hfeed) s
  | fdFeed n d =>
    have heffect : s.effect (.fdFeed n d) = fdRun (seqF n d) s := by simp [State.effect, hdone]
    rw [acceptWord_command _ s _ (decode_encode (i := .fdFeed n d) hfeed), heffect]
    exact ⟨_, _, exec_fdFeed_open n d s hdone, fdTook_fdRun _ s⟩
  | nop | crcClr | crcFeed | faTail | menc | rxClr | rxEnd | rd | srst => cases hfeed

theorem effect_done_of_isFeed {i : Instr} (hfeed : isFeed i) (s : State) : (s.effect i).done = s.done := by
  cases i with
  | mdFeed | fdFeed => exact effect_done_of_feed (by simp [Instr.mnemonic]) s
  | nop | crcClr | crcFeed | faTail | menc | rxClr | rxEnd | rd | srst => cases hfeed

/-- Over a list of feeds the disassembler takes the bits of each, in command order. -/
theorem fdTook_transcript {is : List Instr} {s : State} (hfeeds : ∀ i ∈ is, isFeed i) (hdone : s.done = false) :
    FdTook (List.zipWith pushedBits is (transcript (is.map encode) s).2).flatten s
      (transcript (is.map encode) s).1 := by
  induction is generalizing s with
  | nil => exact fdTook_nil s
  | cons i is ih =>
    obtain ⟨hfeed, hfeeds'⟩ := List.forall_mem_cons.mp hfeeds
    obtain ⟨c, v, haccept, htook⟩ := acceptWord_feed hfeed hdone
    have hopen : ((s.effect i).respond c v).done = false := (effect_done_of_isFeed hfeed s).trans hdone
    rw [List.map_cons, transcript_cons_fst haccept, transcript_cons_snd haccept, List.zipWith_cons_cons,
      List.flatten_cons]
    exact FdTook.trans (t := (s.effect i).respond c v) htook (ih hfeeds' hopen)

/-! ## The decoder -/

/-- The decoder's bit step reads its own elements only (41_manchester.md R79). -/
theorem sameDecoder_mdStep {s u : State} (hsame : SameDecoder s u) (e : Bool) :
    SameDecoder (mdStep e s).1 (mdStep e u).1 ∧ (mdStep e s).2 = (mdStep e u).2 := by
  obtain ⟨hhv, hh, hpidx, hev, hepos, heobs⟩ := hsame
  rw [mdStep, mdStep, hhv, hh, hpidx, hev]
  dsimp only
  split_ifs <;> simp [SameDecoder, *]

/-- So does its loop: what it pushes into the disassembler makes no difference to it. -/
theorem sameDecoder_mdRun {s u : State} (hsame : SameDecoder s u) (es : BitSeq) :
    SameDecoder (mdRun es s).1 (mdRun es u).1 := by
  induction es generalizing s u with
  | nil => exact hsame
  | cons e es ih =>
    obtain ⟨hstate, hbit⟩ := sameDecoder_mdStep hsame e
    rw [mdRun_cons, mdRun_cons, hbit]
    cases (mdStep e u).2 with
    | none => exact ih hstate
    | some b => exact ih (s := fdPush b (mdStep e s).1) (u := fdPush b (mdStep e u).1) hstate

/-- FD.FEED leaves the decoder alone (42_frame.md R95). -/
theorem sameDecoder_effect_fdFeed {s u : State} (hsame : SameDecoder s u) (n : Nat) (d : Half) :
    SameDecoder (s.effect (.fdFeed n d)) u := by
  rw [State.effect]
  split
  · exact hsame
  · rwa [fdRun_eq]

theorem sameDecoder_effect_mdFeed {s u : State} (hsame : SameDecoder s u) (hdone : s.done = false)
    (hdone' : u.done = false) (n : Nat) (d : Half) :
    SameDecoder (s.effect (.mdFeed n d)) (u.effect (.mdFeed n d)) := by
  simp only [State.effect, hdone, hdone', Bool.false_eq_true, if_false]
  exact sameDecoder_mdRun hsame _

/-- Over a list of feeds the decoder goes on as over the MD.FEEDs alone. -/
theorem sameDecoder_transcript_filter {is : List Instr} {s u : State} (hfeeds : ∀ i ∈ is, isFeed i)
    (hsame : SameDecoder s u) (hdone : s.done = false) (hdone' : u.done = false) :
    SameDecoder (transcript (is.map encode) s).1 (transcript ((is.filter isMdFeed).map encode) u).1 := by
  induction is generalizing s u with
  | nil => exact hsame
  | cons i is ih =>
    obtain ⟨hfeed, hfeeds'⟩ := List.forall_mem_cons.mp hfeeds
    obtain ⟨c, v, haccept, -⟩ := acceptWord_feed hfeed hdone
    obtain ⟨c', v', haccept', -⟩ := acceptWord_feed hfeed hdone'
    have hopen : ((s.effect i).respond c v).done = false := (effect_done_of_isFeed hfeed s).trans hdone
    have hopen' : ((u.effect i).respond c' v').done = false := (effect_done_of_isFeed hfeed u).trans hdone'
    rw [List.map_cons, transcript_cons_fst haccept]
    cases i with
    | mdFeed n d =>
      rw [List.filter_cons_of_pos rfl, List.map_cons, transcript_cons_fst haccept']
      exact ih hfeeds' (sameDecoder_effect_mdFeed hsame hdone hdone' n d) hopen hopen'
    | fdFeed n d =>
      rw [List.filter_cons_of_neg Bool.false_ne_true]
      exact ih hfeeds' (sameDecoder_effect_fdFeed hsame n d) hopen hdone'
    | nop | crcClr | crcFeed | faTail | menc | rxClr | rxEnd | rd | srst => cases hfeed

end Sys2Proof.Machine

namespace Sys2Proof.Claims

open Sys2Proof.Machine

/-- Settles O55: each feed pushes its own bits after those before it, and only MD.FEED moves the decoder. -/
theorem mixedFeedsAreDefined : Obligations.MixedFeedsAreDefined := by
  unfold Obligations.MixedFeedsAreDefined
  intro is s hdone hfeeds run pushed
  obtain ⟨htail, hrxcrc, hfcnt⟩ : FdTook pushed s run.1 := fdTook_transcript hfeeds hdone
  exact ⟨htail, hrxcrc, hfcnt, sameDecoder_transcript_filter hfeeds (by simp [SameDecoder]) hdone hdone⟩

end Sys2Proof.Claims

/-! The control commands and the completion of every word (43_control.md R105 to R107, R109). -/

namespace Sys2Proof.Machine

open Sys2Proof.Claims

/-- The host collects one response a word (43_control.md R109). -/
theorem transcript_snd_length (ws : List Word) (s : State) : (transcript ws s).2.length = ws.length := by
  induction ws generalizing s with
  | nil => rfl
  | cons w ws ih =>
    obtain ⟨t, haccept⟩ := exists_acceptWord_eq_next w s
    rw [transcript_cons_snd haccept, List.length_cons, List.length_cons, ih]

theorem carried_length_le {i : Instr} (hwf : i.WellFormed) : (carried i).length ≤ 16 := by
  cases i with
  | crcFeed n d | menc n d | mdFeed n d | fdFeed n d =>
    obtain ⟨-, hle, -⟩ := hwf
    exact (seqF_length n d).trans_le hle
  | nop | crcClr | faTail | rxClr | rxEnd | rd | srst => exact Nat.zero_le 16

/-- One MD.FEED completes at most eight pairs, the half held before it included (41_manchester.md R80). -/
theorem mdRun_seqF_snd_length_le {n : Nat} {d : Half} (hops : FeedOperands n d) (s : State) :
    (mdRun (seqF n d) s).2.length ≤ 8 := by
  have hle : (seqF n d).length ≤ 16 := (seqF_length n d).trans_le hops.2.1
  rw [mdRun_eq (.inl (seqF_ne_nil hops))]
  exact decodedBits_length_le hle s

/-- CRCSTAT as a sum (10_state.md R32). -/
theorem crcstat_toNat (s : State) : s.crcstat.toNat = s.crc.toNat + 2 ^ 16 * s.cne.toNat := by
  rw [State.crcstat]
  simp only [append_toNat, BitVec.toNat_ofBool, BitVec.toNat_ofNat]
  omega

theorem Verdict.code_toNat (v : Verdict) : v.code.toNat = verdictNumber v := by
  cases v <;> rfl

/-- RXSTAT as a sum (10_state.md R32): its ten bits fit a word. -/
theorem rxstat_toNat (s : State) : s.rxstat.toNat =
    s.hv.toNat + 2 * s.h.toNat + 4 * s.ev.toNat + 8 * s.eobs.toNat + 32 * s.done.toNat + 64 * verdictNumber s.verd := by
  rw [State.rxstat, BitVec.toNat_setWidth_of_le (by decide)]
  simp only [append_toNat, BitVec.toNat_ofBool, Verdict.code_toNat]
  omega

theorem eq_ofNat_of_toNat {x : Word} {n : Nat} (h : x.toNat = n) : x = BitVec.ofNat 32 n := by
  rw [← h, BitVec.ofNat_toNat, BitVec.setWidth_eq]

/-- The register map with its layouts as sums (10_state.md R30 to R32). -/
theorem readReg_eq_ofNat (r : Reg) (s : State) : s.readReg r = BitVec.ofNat 32 (regNumber s r) := by
  cases r with
  | cfg => exact cfgWord_eq
  | crcstat => exact eq_ofNat_of_toNat (crcstat_toNat s)
  | rxstat => exact eq_ofNat_of_toNat (rxstat_toNat s)
  | rxpidx | rxepos | rxfcnt => exact eq_ofNat_of_toNat rfl
  | rxtail | rxcrc => exact (BitVec.ofNat_toNat 32 _).symm
  | rxvw => exact vw_eq_ofNat s

end Sys2Proof.Machine

namespace Sys2Proof.Claims

open Sys2Proof.Machine

/-- RD is the only command of format R (30_encoding.md R52). -/
theorem eq_rd_of_format_r {i : Instr} (hfmt : i.format = .r) : ∃ r, i = .rd r := by
  cases i with
  | rd r => exact ⟨r, rfl⟩
  | _ => cases hfmt

theorem not_allowsOperands_r {w : Word} (hop : Format.r.HasOpcode w) (hne : ∀ r, w ≠ encode (.rd r)) :
    ¬ Format.r.AllowsOperands w := by
  intro hoperands
  obtain ⟨i, -, hfmt, hencode⟩ := exists_encode_eq hop hoperands
  obtain ⟨r, rfl⟩ := eq_rd_of_format_r hfmt
  exact hne r hencode.symm

theorem encode_rd (r : Reg) : encode (.rd r) = 0x10000000#32 ||| BitVec.ofNat 32 (regNumberOf r) := by
  cases r <;> rfl

/-- Settles O13: every word answers, a command carries at most 16 bits, and MD.FEED decodes one bit from
two of them. -/
theorem commandsCompleteWithOneResponse : Obligations.CommandsCompleteWithOneResponse := by
  unfold Obligations.CommandsCompleteWithOneResponse
  refine ⟨exists_acceptWord_eq_next, transcript_snd_length, fun w i hdecode => ?_, fun n d s hops => ?_⟩
  · exact carried_length_le (wellFormed_of_decode hdecode)
  · exact mdRun_seqF_snd_length_le hops s

/-- Settles O23: the map's layouts are sums, and RD is alone in its format, so a word of its opcode that is none of the
nine has operands out of range. -/
theorem rdCompletes : Obligations.RdCompletes := by
  unfold Obligations.RdCompletes
  refine ⟨fun r => ⟨encode_rd r, decode_encode trivial⟩, fun r s => ?_, fun w s hopcode hne => ?_⟩
  · rw [exec_rd, readReg_eq_ofNat]
    rfl
  · have hop : Format.r.HasOpcode w := by simp [Format.HasOpcode, hopcode, Format.opcodes]
    exact acceptWord_of_not_allowsOperands hop (not_allowsOperands_r hop hne) s

/-- Settles O14: NOP is answered and has no effect; it has format Z. -/
theorem nopCompletes : Obligations.NopCompletes := by
  unfold Obligations.NopCompletes
  exact ⟨onlyWord_of_format_z trivial rfl (by decide), exec_nop⟩

/-- Settles O24: SRST makes the two clears, which leave nothing of the state before; it has format Z. -/
theorem srstCompletes : Obligations.SrstCompletes := by
  unfold Obligations.SrstCompletes
  refine ⟨onlyWord_of_format_z trivial rfl (by decide), fun s => ⟨?_, fun t hexec => ?_⟩⟩
  · rw [exec_srst, clearCrc_clearRx_respond_eq_reset]
  · rw [exec_crcClr] at hexec
    cases hexec
    rw [exec_rxClr, exec_srst]
    rfl

end Sys2Proof.Claims

/-! The fault injector, position by position (49_host.md R120 to R122). -/

namespace Sys2Proof.Harness

/-- A toggle of the positions that satisfy `P`, read at one position. -/
theorem getElem?_mapIdx_toggle (f : BitSeq) (P : Nat → Prop) [DecidablePred P] (i : Nat) :
    (f.mapIdx fun j b => if P j then !b else b)[i]? = if P i then f[i]?.map (fun b => !b) else f[i]? := by
  rw [List.getElem?_mapIdx]
  by_cases h : P i <;> simp [h]

theorem flipBit_getElem? (f : BitSeq) (pos i : Nat) :
    (flipBit f pos)[i]? = if i = pos then f[i]?.map (fun b => !b) else f[i]? := by
  rw [flipBit]
  split
  · exact getElem?_mapIdx_toggle f (· = pos) i
  · next hout =>
    split
    · next hi => simp [List.getElem?_eq_none (hi ▸ Nat.not_lt.mp hout)]
    · rfl

/-- The clip at the frame's end makes no difference: there is no bit beyond it (49_host.md R121). -/
theorem flipBurst_getElem? (f : BitSeq) (pos n i : Nat) :
    (flipBurst f pos n)[i]? = if pos ≤ i ∧ i < pos + n then f[i]?.map (fun b => !b) else f[i]? := by
  by_cases hi : i < f.length
  · rw [flipBurst]
    split
    · rw [getElem?_mapIdx_toggle f (fun j => pos ≤ j ∧ j < min (pos + n) f.length) i]
      simp only [lt_min_iff, hi, and_true]
    · rw [if_neg (by omega)]
  · have hlen : (flipBurst f pos n).length = f.length := by
      rw [flipBurst]
      split <;> simp
    rw [List.getElem?_eq_none (by omega), List.getElem?_eq_none (by omega)]
    simp

/-- Distinct positions are toggled once each, in whatever order (49_host.md R122). -/
theorem foldl_flipBit_getElem? {draw : List Nat} (hnodup : draw.Nodup) (f : BitSeq) (i : Nat) :
    (draw.foldl flipBit f)[i]? = if i ∈ draw then f[i]?.map (fun b => !b) else f[i]? := by
  induction draw generalizing f with
  | nil => simp
  | cons p ps ih =>
    obtain ⟨hp, hnodup'⟩ := List.nodup_cons.mp hnodup
    rw [List.foldl_cons, ih hnodup', flipBit_getElem?]
    by_cases hi : i = p
    · subst hi
      simp [hp]
    · simp [hi]

theorem flipK_eq_error_iff (f : BitSeq) (k : Nat) (draw : List Nat) :
    flipK f k draw = .error .invalidCount ↔ k < 1 ∨ f.length < k := by
  rw [flipK]
  split
  · next hout => exact iff_of_true rfl hout
  · next hin => exact iff_of_false (by simp) hin

theorem eq_of_flipK {f g : BitSeq} {k : Nat} {draw : List Nat} (h : flipK f k draw = .ok g) :
    g = draw.foldl flipBit f := by
  rw [flipK] at h
  split at h <;> cases h
  rfl

end Sys2Proof.Harness

/-! The wire payload (49_host.md R114, R115): a byte stands for a bit or is bad, and a bad byte is the policy's. -/

namespace Sys2Proof.Harness

/-- A byte is a bit's character or bad. -/
theorem byte_cases (c : Byte) : (∃ b, c = byteOf b) ∨ (c ≠ 0x30#8 ∧ c ≠ 0x31#8) := by
  by_cases hzero : c = 0x30#8
  · exact .inl ⟨false, hzero⟩
  · by_cases hone : c = 0x31#8
    · exact .inl ⟨true, hone⟩
    · exact .inr ⟨hzero, hone⟩

@[simp] theorem parse_nil (policy : Config.BadCharPolicy) : parse policy [] = .ok [] := rfl

@[simp] theorem parse_byteOf (policy : Config.BadCharPolicy) (b : Bool) (cs : List Byte) :
    parse policy (byteOf b :: cs) = (parse policy cs).map (fun s => b :: s) := by
  cases b <;> rfl

theorem parse_structural_bad {c : Byte} (hzero : c ≠ 0x30#8) (hone : c ≠ 0x31#8) (cs : List Byte) :
    parse .structural (c :: cs) = .error .structural := by
  rw [parse, if_neg hzero, if_neg hone]

theorem parse_detected_bad {c : Byte} (hzero : c ≠ 0x30#8) (hone : c ≠ 0x31#8) (cs : List Byte) :
    parse .detected (c :: cs) = .error .detected := by
  rw [parse, if_neg hzero, if_neg hone]

theorem parse_skip_bad {c : Byte} (hzero : c ≠ 0x30#8) (hone : c ≠ 0x31#8) (cs : List Byte) :
    parse .skip (c :: cs) = parse .skip cs := by
  rw [parse, if_neg hzero, if_neg hone]

theorem parse_serialize (policy : Config.BadCharPolicy) (s : BitSeq) : parse policy (serialize s) = .ok s := by
  induction s with
  | nil => rfl
  | cons b s ih =>
    rw [serialize] at ih
    rw [serialize, List.map_cons, parse_byteOf, ih]
    rfl

/-- Under a policy that stops at a bad byte, a payload that has one is not parsed. -/
theorem parse_eq_error_of_bad {policy : Config.BadCharPolicy} {stop : ParseStop}
    (hstop : ∀ c : Byte, c ≠ 0x30#8 → c ≠ 0x31#8 → ∀ cs, parse policy (c :: cs) = .error stop) {bytes : List Byte}
    (hbad : ∃ b ∈ bytes, b ≠ 0x30#8 ∧ b ≠ 0x31#8) : parse policy bytes = .error stop := by
  induction bytes with
  | nil => simp at hbad
  | cons c cs ih =>
    obtain ⟨b, rfl⟩ | ⟨hzero, hone⟩ := byte_cases c
    · have hrest : ∃ b ∈ cs, b ≠ 0x30#8 ∧ b ≠ 0x31#8 := by
        cases b <;> simpa [byteOf] using hbad
      rw [parse_byteOf, ih hrest]
      rfl
    · exact hstop c hzero hone cs

theorem parse_skip_eq (bytes : List Byte) :
    parse .skip bytes =
      .ok ((bytes.filter (fun b => b == 0x30#8 || b == 0x31#8)).map (fun b => b == 0x31#8)) := by
  induction bytes with
  | nil => rfl
  | cons c cs ih =>
    obtain ⟨b, rfl⟩ | ⟨hzero, hone⟩ := byte_cases c
    · rw [parse_byteOf, ih]
      cases b <;> rfl
    · rw [parse_skip_bad hzero hone, ih]
      simp [hzero, hone]

end Sys2Proof.Harness

/-! The transport (49_host.md R117): what a `send` writes is a first part of the bytes, and its status says whether it is
all of them. -/

namespace Sys2Proof.Harness

theorem sendBytes_stream_prefix (writes : List WriteAttempt) (bytes : List Byte) :
    (sendBytes writes bytes).stream <+: bytes := by
  induction writes, bytes using sendBytes.induct with
  | case1 => simp
  | case2 => exact List.nil_prefix
  | case3 => exact List.nil_prefix
  | case4 n ws b bs ih =>
    rw [sendBytes_takes n ws _ (by simp)]
    simpa only [List.take_append_drop] using (List.prefix_append_right_inj ((b :: bs).take n)).mpr ih

theorem sendBytes_complete_iff (writes : List WriteAttempt) (bytes : List Byte) :
    (sendBytes writes bytes).status = .complete ↔ (sendBytes writes bytes).stream = bytes := by
  induction writes, bytes using sendBytes.induct with
  | case1 => simp
  | case2 => simp [sendBytes]
  | case3 => simp [sendBytes]
  | case4 n ws b bs ih =>
    rw [sendBytes_takes n ws _ (by simp)]
    dsimp only
    rw [ih, ← List.append_right_inj ((b :: bs).take n), List.take_append_drop]

theorem fails_mem_of_sendBytes_writeError {writes : List WriteAttempt} {bytes : List Byte}
    (h : (sendBytes writes bytes).status = .writeError) : .fails ∈ writes := by
  induction writes, bytes using sendBytes.induct with
  | case1 => simp at h
  | case2 => cases h
  | case3 => exact List.mem_cons_self
  | case4 n ws b bs ih =>
    rw [sendBytes_takes n ws _ (by simp)] at h
    exact List.mem_cons_of_mem _ (ih h)

theorem sendBytes_complete_of_room {writes : List WriteAttempt} {bytes : List Byte} (hfails : .fails ∉ writes)
    (hroom : bytes.length ≤ (writes.map WriteAttempt.room).sum) : (sendBytes writes bytes).status = .complete := by
  induction writes, bytes using sendBytes.induct with
  | case1 => simp
  | case2 => simp at hroom
  | case3 => simp at hfails
  | case4 n ws b bs ih =>
    rw [sendBytes_takes n ws _ (by simp)]
    rw [List.map_cons, List.sum_cons, WriteAttempt.room] at hroom
    exact ih (fun hmem => hfails (List.mem_cons_of_mem _ hmem)) (by rw [List.length_drop]; omega)

theorem sendBytes_ne_retrying {writes : List WriteAttempt} (hfails : .fails ∈ writes) (bytes : List Byte) :
    (sendBytes writes bytes).status ≠ .retrying := by
  induction writes, bytes using sendBytes.induct with
  | case1 => simp
  | case2 => simp at hfails
  | case3 => simp [sendBytes]
  | case4 n ws b bs ih =>
    rw [sendBytes_takes n ws _ (by simp)]
    exact ih (by simpa using hfails)

theorem Sending.result_eq_ok_iff (r : Sending) (n : Nat) :
    r.result = some (.ok n) ↔ r.status = .complete ∧ r.stream.length = n := by
  rw [Sending.result]
  cases r.status <;> simp

theorem Sending.result_eq_error_iff (r : Sending) (e : SenderError) :
    r.result = some (.error e) ↔ r.status = .writeError ∧ e = .writeError := by
  rw [Sending.result]
  cases r.status <;> simp [eq_comm]

/-- The result is the number of the bytes exactly when all are written. -/
theorem sendBytes_result_eq_length_iff (writes : List WriteAttempt) (bytes : List Byte) :
    (sendBytes writes bytes).result = some (.ok bytes.length) ↔ (sendBytes writes bytes).stream = bytes := by
  rw [Sending.result_eq_ok_iff, sendBytes_complete_iff]
  exact ⟨And.left, fun h => ⟨h, congrArg List.length h⟩⟩

/-- A write error is the answer of some attempt, and bytes are left. -/
theorem fails_mem_and_stream_ne_of_writeError {writes : List WriteAttempt} {bytes : List Byte}
    (h : (sendBytes writes bytes).result = some (.error .writeError)) :
    .fails ∈ writes ∧ (sendBytes writes bytes).stream ≠ bytes := by
  obtain ⟨hstatus, -⟩ := (Sending.result_eq_error_iff _ _).mp h
  refine ⟨fails_mem_of_sendBytes_writeError hstatus, fun hall => ?_⟩
  rw [(sendBytes_complete_iff writes bytes).mpr hall] at hstatus
  cases hstatus

end Sys2Proof.Harness

namespace Sys2Proof.Claims

open Sys2Proof.Machine Sys2Proof.Reference Sys2Proof.Harness

/-- Settles O56: each operation read at one position; the positions of a draw are distinct, so none is toggled twice. -/
theorem injectorTogglesExactly : Obligations.InjectorTogglesExactly := by
  unfold Obligations.InjectorTogglesExactly
  refine ⟨flipBit_getElem?, flipBurst_getElem?, flipK_eq_error_iff, fun f g k draw hdraw h i => ?_⟩
  obtain ⟨-, hnodup, -⟩ := hdraw
  rw [eq_of_flipK h, foldl_flipBit_getElem? hnodup]

/-- Settles O57: the parse byte by byte, the `send` attempt by attempt, and all that `receive_until_close` can answer. -/
theorem wirePayloadParses : Obligations.WirePayloadParses := by
  unfold Obligations.WirePayloadParses
  refine ⟨fun s => List.length_map byteOf, parse_serialize, fun bytes hbad => ?_, parse_skip_eq,
    fun writes bytes => ?_, receiveUntilClose_arrives, fun reads hfails => ?_⟩
  · exact ⟨parse_eq_error_of_bad (fun _ => parse_structural_bad) hbad,
      parse_eq_error_of_bad (fun _ => parse_detected_bad) hbad⟩
  · exact ⟨sendBytes_stream_prefix writes bytes, sendBytes_complete_iff writes bytes,
      fails_mem_of_sendBytes_writeError, sendBytes_complete_of_room, fun hfails => sendBytes_ne_retrying hfails bytes⟩
  · rw [receiveUntilClose_eq, if_pos hfails]

end Sys2Proof.Claims

/-! The data string (49_host.md R119) and the sender's flow up to the payload (49_host.md R112). -/

namespace Sys2Proof.Asm

theorem bitChars_of_binary {text : List Char} (hbinary : ∀ ch ∈ text, ch = '0' ∨ ch = '1') :
    bitChars text = some (text.map (· == '1')) := by
  induction text with
  | nil => rfl
  | cons c cs ih =>
    obtain ⟨rfl | rfl, hrest⟩ := List.forall_mem_cons.mp hbinary
    · simp [bitChars, ih hrest]
    · simp [bitChars, ih hrest]

theorem bitChars_of_bad {text : List Char} (hbad : ∃ ch ∈ text, ch ≠ '0' ∧ ch ≠ '1') : bitChars text = none := by
  induction text using bitChars.induct with
  | case1 => simp at hbad
  | case2 cs ih => simp [bitChars, ih (by simpa using hbad)]
  | case3 cs ih => simp [bitChars, ih (by simpa using hbad)]
  | case4 c cs hzero hone => exact bitChars.eq_4 c cs hzero hone

theorem length_of_bitChars {text : List Char} {s : BitSeq} (h : bitChars text = some s) : s.length = text.length := by
  by_cases hbinary : ∀ ch ∈ text, ch = '0' ∨ ch = '1'
  · rw [bitChars_of_binary hbinary] at h
    cases h
    exact List.length_map _
  · rw [bitChars_of_bad (by simpa using hbinary)] at h
    cases h

end Sys2Proof.Asm

namespace Sys2Proof.Harness

open Sys2Proof.Machine Sys2Proof.Reference Sys2Proof.Claims

theorem dataBits_of_binary {text : List Char} (hne : text ≠ []) (hbinary : ∀ ch ∈ text, ch = '0' ∨ ch = '1') :
    dataBits text = .ok (text.map (· == '1')) := by
  rw [dataBits, if_neg hne, Asm.bitChars_of_binary hbinary]

theorem dataBits_of_nonBinary {text : List Char} (hbad : ∃ ch ∈ text, ch ≠ '0' ∧ ch ≠ '1') :
    dataBits text = .error .nonBinary := by
  have hne : text ≠ [] := by
    rintro rfl
    simp at hbad
  rw [dataBits, if_neg hne, Asm.bitChars_of_bad hbad]

/-- Accepted data has at least one bit. -/
theorem ne_nil_of_dataBits {text : List Char} {d : BitSeq} (h : dataBits text = .ok d) : d ≠ [] := by
  rw [dataBits] at h
  split at h
  · cases h
  · next hne =>
    split at h
    · next s hs =>
      cases h
      exact List.ne_nil_of_length_pos (Asm.length_of_bitChars hs ▸ List.length_pos_of_ne_nil hne)
    · cases h

/-! The flows cut at every 16 bits, as the pseudo-commands do (log entry 21). -/

theorem map_encode_feedAll (mk : Nat → Half → Instr) (s : BitSeq) :
    (Asm.feedAll mk s).map encode = feedWords mk (chunks s) := by
  rw [Asm.feedAll, List.map_map, feedWords]
  rfl

theorem assembleWords_eq (d : BitSeq) :
    assembleWords d = encode .crcClr :: (feedWords .crcFeed (chunks d) ++ [encode .faTail]) := by
  rw [assembleWords, List.map_append, List.map_cons, map_encode_feedAll]
  rfl

theorem mencWords_eq (s : BitSeq) : mencWords s = feedWords .menc (chunks s) := map_encode_feedAll _ s

theorem receiveWords_eq (e : BitSeq) : receiveWords e = receiveRun .mdFeed (chunks e) := by
  rw [receiveWords, List.map_append, List.map_cons, map_encode_feedAll]
  rfl

theorem chunks_ne_nil {s : BitSeq} (hs : s ≠ []) : chunks s ≠ [] := by
  rw [chunks_of_ne_nil hs]
  exact List.cons_ne_nil _ _

/-- The sender's commands answer FA.TAIL with the CRC of the data (42_frame.md R91). -/
theorem lastResponse_assembleWords {d : BitSeq} (hne : d ≠ []) (s : State) :
    lastResponse (transcript (assembleWords d) s).2 = ⟨.ok, (crc16 d).setWidth 32⟩ := by
  rw [assembleWords_eq, lastResponse_crcFeeds_faTail (chunks_isCut d) (chunks_ne_nil hne), chunks_flatten]

/-- The sender's MENC commands give the encoding of the frame (41_manchester.md R78). -/
theorem mencBits_mencWords (f : BitSeq) (s : State) :
    mencBits (chunks f) (transcript (mencWords f) s).2 = encodeBits f := by
  rw [mencWords_eq, mencBits_transcript (chunks_isCut f), chunks_flatten]

/-- What the sender sends, on a core in any state: the bytes of the encoded frame with its fault, or the injector's
error. -/
theorem send_eq (p : Config.HostParams) (c : FaultChoice) {text : List Char} {d : BitSeq} (hd : dataBits text = .ok d)
    (s : State) : (send p c text s).2 = (inject p c (buildFrame d)).map (fun f => serialize (encodeBits f)) := by
  have hfield : (((crc16 d).setWidth 32 : Word).setWidth 16 : Half) = crc16 d :=
    BitVec.setWidth_setWidth_of_le _ (by decide)
  simp only [send, hd, lastResponse_assembleWords (ne_nil_of_dataBits hd), if_true, hfield, buildFrame]
  cases inject p c (d ++ bits16 (crc16 d)) with
  | error e => rfl
  | ok f => exact congrArg (fun e => Except.ok (serialize e)) (mencBits_mencWords f _)

theorem transmit_error (p : Config.HostParams) (c : FaultChoice) {text : List Char} {s : State} {e : SenderError}
    (h : (send p c text s).2 = .error e) (writes : List WriteAttempt) :
    (transmit p c text writes s).2 = ⟨[], some (.error e)⟩ := by
  unfold transmit
  rcases hs : send p c text s with ⟨t, r⟩
  rw [hs] at h
  subst h
  rfl

/-- A count out of range is refused, whether the command line rejects it as even or `flip_k` as out of range
(49_host.md R122; log entry 14). -/
theorem inject_oddCount_out_of_range (p : Config.HostParams) {f : BitSeq} {k : Nat} (hout : k < 1 ∨ f.length < k)
    (draw : List Nat) : inject p (.oddCount k draw) f = .error .invalidCount := by
  rw [inject]
  split
  · rfl
  · exact (flipK_eq_error_iff f k draw).mpr hout

/-- A run that stops has an exit status, and it is not 0. -/
theorem exists_senderExit_ne_zero {α : Type} (p : Config.HostParams) (e : SenderError) :
    ∃ n, senderExit p (.error e : Except SenderError α) = some n ∧ n ≠ 0 :=
  ⟨e.exitCode p, rfl, e.exitCode_ne_zero p⟩

end Sys2Proof.Harness

/-! The receiver's flow (49_host.md R113, R116, R118). -/

namespace Sys2Proof.Machine

open Sys2Proof.Claims Sys2Proof.Reference Sys2Proof.Harness

/-- DET of the verdict word (10_state.md R32). -/
theorem vw_getLsbD_det (s : State) : s.vw.getLsbD 4 = s.verd.det := by
  have hdet : (s.obs ++ BitVec.ofBool s.verd.det ++ s.verd.code).getLsbD 4 = s.verd.det := by
    rw [BitVec.getLsbD_append, if_neg (by decide), BitVec.getLsbD_append, if_pos (by decide)]
    cases s.verd.det <;> rfl
  rw [State.vw, BitVec.getLsbD_setWidth, hdet]
  rfl

/-- VERD of the verdict word (10_state.md R32). -/
theorem vw_extract_verd (s : State) : s.vw.extractLsb' 0 4 = s.verd.code := by
  apply BitVec.eq_of_getLsbD_eq
  intro j hj
  rw [State.vw, BitVec.getLsbD_extractLsb', BitVec.getLsbD_setWidth, BitVec.getLsbD_append, if_pos (by omega),
    decide_eq_true hj, decide_eq_true (by omega), Bool.true_and, Bool.true_and, Nat.zero_add]

/-- The last response of a receive sequence is the verdict word of the state it leaves (42_frame.md R97). -/
theorem lastResponse_receiveRun (mk : Nat → Half → Instr) (cs : List BitSeq) (s : State) :
    (lastResponse (transcript (receiveRun mk cs) s).2).data = (transcript (receiveRun mk cs) s).1.vw := by
  rw [receiveRun, ← List.cons_append, lastResponse_transcript_append_singleton _ (acceptWord_rxEnd _),
    transcript_append, transcript_cons_fst (acceptWord_rxEnd _)]
  rfl

/-- RX.CLR and RX.END alone: nothing was received, which is too short (42_frame.md R97, R98). -/
theorem transcript_receiveRun_nil (mk : Nat → Half → Instr) (s : State) :
    (transcript (receiveRun mk []) s).2 = [⟨.ok, 0#32⟩, ⟨.ok, 0x13#32⟩] := by
  have hopen : (s.clearRx.respond .ok 0#32).done = false := rfl
  have hend := (acceptWord_command _ _ _ (decode_encode (i := .rxEnd) trivial)).trans (exec_rxEnd_open hopen)
  rw [receiveRun, transcript_cons_snd (acceptWord_rxClr s), feedWords, List.map_nil, List.nil_append,
    transcript_cons_snd hend]
  rfl

end Sys2Proof.Machine

namespace Sys2Proof.Harness

open Sys2Proof.Machine Sys2Proof.Reference Sys2Proof.Claims

theorem det_iff_mem (v : Verdict) : v.det = true ↔ v ∈ [.mismatch, .tooShort, .oddLength, .invalidPair] := by
  cases v <;> decide

/-- The report of a verdict (49_host.md R118): none before RX.END (60_exceptions.md R134). -/
def reportOfVerdict : Verdict → Option Report
  | .none => none
  | .matched => some .noErrorDetected
  | .mismatch => some .errorDetected
  | .tooShort => some .errorDetected
  | .oddLength => some .errorDetected
  | .invalidPair => some .errorDetected

theorem reportOf_vw_eq_reportOfVerdict (s : State) : reportOf s.vw = reportOfVerdict s.verd := by
  rw [reportOf_vw]
  cases s.verd <;> rfl

theorem reportOfVerdict_eq_errorDetected_iff (v : Verdict) :
    reportOfVerdict v = some .errorDetected ↔ v ∈ [.mismatch, .tooShort, .oddLength, .invalidPair] := by
  cases v <;> decide

theorem reportOfVerdict_eq_noErrorDetected_iff (v : Verdict) :
    reportOfVerdict v = some .noErrorDetected ↔ v = .matched := by
  cases v <;> decide

/-- Every result of `decode_and_verify` has a report. -/
theorem exists_reportOfVerdict (r : Verification) : ∃ report, reportOfVerdict r.verdict = some report := by
  cases r <;> exact ⟨_, rfl⟩

/-- A verdict given to a frame keeps the bits delivered (41_manchester.md R83). -/
theorem keptBits_vw {s : State} (hodd : s.verd ≠ .oddLength) (hinvalid : s.verd ≠ .invalidPair) (rs : List Response) :
    keptBits s.vw rs = some (rs.map deliveredBits).flatten := by
  rw [keptBits, vw_extract_verd, if_neg]
  rintro (h | h)
  · exact hodd (Verdict.code_inj h)
  · exact hinvalid (Verdict.code_inj h)

/-- The verdict that a reception stores is that of `decode_and_verify` (42_frame.md R102). -/
theorem receiveRun_chunks_verd (e : BitSeq) (s : State) :
    (transcript (receiveRun .mdFeed (chunks e)) s).1.verd = (decodeAndVerify e).verdict := by
  have hverd := (receivePathComputesDecodeAndVerify (chunks e) s (chunks_isCut e)).1
  rwa [chunks_flatten] at hverd

/-- A payload that parses goes through the core, and the report is that of `decode_and_verify`'s verdict. -/
theorem receive_of_parse {policy : Config.BadCharPolicy} {bytes : List Byte} {e : BitSeq} (hne : bytes ≠ [])
    (hparse : parse policy bytes = .ok e) (s : State) :
    (receive policy (some bytes) s).2 =
      ⟨reportOfVerdict (decodeAndVerify e).verdict,
        keptBits (transcript (receiveRun .mdFeed (chunks e)) s).1.vw
          (transcript (receiveRun .mdFeed (chunks e)) s).2.tail.dropLast⟩ := by
  obtain ⟨c, cs, rfl⟩ := List.exists_cons_of_ne_nil hne
  simp only [receive, hparse, receiveWords_eq, lastResponse_receiveRun, List.drop_one,
    reportOf_vw_eq_reportOfVerdict, receiveRun_chunks_verd]

theorem exists_report (policy : Config.BadCharPolicy) (payload : Option (List Byte)) (s : State) :
    ∃ report, (receive policy payload s).2.report = some report := by
  match payload with
  | none => exact ⟨_, rfl⟩
  | some [] => exact ⟨_, rfl⟩
  | some (c :: cs) =>
    cases hparse : parse policy (c :: cs) with
    | error stop => cases stop <;> exact ⟨_, by rw [receive, hparse]⟩
    | ok e =>
      rw [receive_of_parse (List.cons_ne_nil c cs) hparse]
      exact exists_reportOfVerdict _

/-- The receiver's run on the payload of an encoded frame: the report of the frame's verdict, and the frame's bits. -/
theorem receive_serialize_encodeBits (policy : Config.BadCharPolicy) {f : BitSeq} (hne : f ≠ []) (s : State) :
    (receive policy (some (serialize (encodeBits f))) s).2 = ⟨reportOfVerdict (verifyFrame f).verdict, some f⟩ := by
  have hpayload : serialize (encodeBits f) ≠ [] := by
    have hpos := List.length_pos_of_ne_nil hne
    apply List.ne_nil_of_length_pos
    rw [serialize, List.length_map, encodeBits_length]
    omega
  have hresult : (decodeAndVerify (encodeBits f)).verdict = (verifyFrame f).verdict :=
    congrArg Verification.verdict (decodeAndVerify_of_decodeBits (decodeBits_encodeBits f))
  have hverd := (receiveRun_chunks_verd (encodeBits f) s).trans hresult
  obtain ⟨-, -, -, -, hbits⟩ := decoderComputesDecode (chunks (encodeBits f)) s (chunks_isCut _)
  rw [chunks_flatten] at hbits
  obtain ⟨hdelivered, -⟩ := hbits f (decodeBits_encodeBits f)
  rw [receive_of_parse hpayload (parse_serialize policy _), hresult, keptBits_vw, hdelivered]
  all_goals
    rw [hverd]
    cases verifyFrame f <;> simp

end Sys2Proof.Harness

namespace Sys2Proof.Claims

open Sys2Proof.Machine Sys2Proof.Reference Sys2Proof.Harness

/-- Settles O60: what the sender sends is the encoding of the frame with its fault, which the receiver decodes again; the
verdict is that of `verify_frame` on it. -/
theorem transmissionEndToEnd : Obligations.TransmissionEndToEnd := by
  unfold Obligations.TransmissionEndToEnd
  refine ⟨exists_report, fun p policy text d s r hd => ⟨?_, fun hadm => ?_, fun c payload writes reads hsend => ?_⟩⟩
  · have hne := ne_nil_of_dataBits hd
    have hframe : buildFrame d ≠ [] := List.append_ne_nil_of_left_ne_nil hne _
    refine ⟨serialize (encodeBits (buildFrame d)), send_eq p .noError hd s, ?_, ?_⟩
    · rw [serialize, List.length_map, encodeBits_length, buildFrame_length]
    · rw [receive_serialize_encodeBits policy hframe, verifyFrame_buildFrame hne]
      rfl
  · obtain ⟨hpos, -⟩ := hadm
    rw [← buildFrame_length] at hpos
    have hframe : flipBit (buildFrame d) p.posSingle ≠ [] :=
      List.ne_nil_of_length_pos (by rw [flipBit_length]; omega)
    refine ⟨serialize (encodeBits (flipBit (buildFrame d) p.posSingle)), send_eq p .single hd s, ?_, rfl⟩
    rw [receive_serialize_encodeBits policy hframe, verdict_verifyFrame_flipBit (ne_nil_of_dataBits hd) hpos]
    rfl
  · rw [transmit_ok p c text writes s payload hsend]
    refine ⟨sendBytes_stream_prefix writes payload, sendBytes_result_eq_length_iff writes payload,
      fails_mem_and_stream_ne_of_writeError, fun harrives hall => ?_⟩
    rw [receiveUntilClose_arrives reads _ harrives, (sendBytes_result_eq_length_iff writes payload).mp hall]

/-- Settles O58: the data string is refused before any command, the count by the injector; a run that stops writes
nothing, and no exit status is 0. -/
theorem senderRejectsBadInput : Obligations.SenderRejectsBadInput := by
  unfold Obligations.SenderRejectsBadInput
  refine ⟨fun p c s => rfl, fun p c s text hbad => ?_, fun p s text k draw hne hbinary hout => ?_,
    fun p c s text e hsend => ?_, fun p c s text writes e hsend => transmit_error p c hsend writes,
    fun p c s text writes r e _ he => ?_⟩
  · rw [send, dataBits_of_nonBinary hbad]
  · have hlen : k < 1 ∨ (buildFrame (text.map (· == '1'))).length < k := by
      rwa [buildFrame_length, List.length_map]
    rw [send_eq p _ (dataBits_of_binary hne hbinary), inject_oddCount_out_of_range p hlen]
    rfl
  · rw [hsend]
    exact exists_senderExit_ne_zero p e
  · rw [he]
    exact exists_senderExit_ne_zero p e

/-- Settles O59: DET and the report are functions of the verdict; the structural failures issue no command. -/
theorem receiverReports : Obligations.ReceiverReports := by
  unfold Obligations.ReceiverReports
  refine ⟨fun s => ⟨?_, ?_, ?_⟩, fun policy s => ⟨rfl, rfl⟩, rfl, rfl, rfl, rfl, rfl, transcript_receiveRun_nil .mdFeed⟩
  · rw [vw_getLsbD_det, det_iff_mem]
  · rw [reportOf_vw_eq_reportOfVerdict, reportOfVerdict_eq_errorDetected_iff]
  · rw [reportOf_vw_eq_reportOfVerdict, reportOfVerdict_eq_noErrorDetected_iff]

end Sys2Proof.Claims

/-! The response code of every word (60_exceptions.md R128 to R130, R136): a command's code is a function of the command,
CNE and DONE, and any code but OK leaves every other element as it was. -/

namespace Sys2Proof.Machine

/-- The code that a command answers (60_exceptions.md R130). -/
def State.answerCode (i : Instr) (s : State) : RCode :=
  match i with
  | .faTail => if s.cne = true then .ok else .empty
  | .mdFeed _ _ => if s.done = true then .closed else .ok
  | .fdFeed _ _ => if s.done = true then .closed else .ok
  | _ => .ok

/-- A command answers its code, and one that does not answer OK is not carried out. -/
theorem exec_answerCode {i : Instr} {s t : State} (hexec : exec i s = .next t) :
    t.rcode = s.answerCode i ∧ (s.answerCode i ≠ .ok → t = s.rejectCommand (s.answerCode i)) := by
  cases i with
  | nop | crcClr | crcFeed | menc | rxClr | rxEnd | rd | srst => cases hexec; exact ⟨rfl, fun h => absurd rfl h⟩
  | faTail =>
    cases hcne : s.cne with
    | true =>
      rw [exec_faTail_ok s hcne] at hexec
      cases hexec
      simp [State.answerCode, hcne]
    | false =>
      rw [exec_faTail_empty s hcne] at hexec
      cases hexec
      simp [State.answerCode, hcne]
  | mdFeed | fdFeed =>
    cases hdone : s.done with
    | true =>
      simp only [exec_mdFeed_closed, exec_fdFeed_closed, hdone] at hexec
      cases hexec
      simp [State.answerCode, hdone]
    | false =>
      simp only [exec_mdFeed_open, exec_fdFeed_open, hdone] at hexec
      cases hexec
      simp [State.answerCode, hdone]

/-- The table of R129 lists the code. -/
theorem State.answerCode_mem_codes (i : Instr) (s : State) : s.answerCode i ∈ i.codes := by
  cases i with
  | faTail | mdFeed | fdFeed => rw [State.answerCode]; split <;> simp [Instr.codes]
  | _ => exact List.mem_singleton_self _

/-- No command has ILLEGAL in its row of R129. -/
theorem illegal_not_mem_codes (i : Instr) : .illegal ∉ i.codes := by
  cases i <;> simp [Instr.codes]

theorem State.answerCode_ne_illegal (i : Instr) (s : State) : s.answerCode i ≠ .illegal :=
  ne_of_mem_of_not_mem (s.answerCode_mem_codes i) (illegal_not_mem_codes i)

theorem State.answerCode_eq_empty_iff (i : Instr) (s : State) :
    s.answerCode i = .empty ↔ i = .faTail ∧ s.cne = false := by
  cases i with
  | faTail => cases hcne : s.cne <;> simp [State.answerCode, hcne]
  | mdFeed | fdFeed => cases hdone : s.done <;> simp [State.answerCode, hdone]
  | _ => simp [State.answerCode]

theorem State.answerCode_eq_closed_iff (i : Instr) (s : State) :
    s.answerCode i = .closed ↔ s.done = true ∧ (opcode i = 0x09#8 ∨ opcode i = 0x0A#8) := by
  cases i with
  | faTail => cases hcne : s.cne <;> simp [State.answerCode, opcode, hcne]
  | mdFeed | fdFeed => cases hdone : s.done <;> simp [State.answerCode, opcode, hdone]
  | _ => simp [State.answerCode, opcode]

end Sys2Proof.Machine

namespace Sys2Proof.Claims

open Sys2Proof.Machine

/-- Settles O12: a move is a word, which is answered, or the reset input; with none on the port the step is idle. -/
theorem stepTotal : Obligations.StepTotal := by
  unfold Obligations.StepTotal
  intro s
  match hport : s.port with
  | [] => exact ⟨s, step_idle hport⟩
  | .command w :: rest => rw [step_command hport]; exact exists_acceptWord_eq_next w _
  | .reset inFlight :: rest => exact ⟨_, step_reset hport⟩

/-- Settles O27: the table lists the code of every command, and a word that does not decode is rejected as illegal. -/
theorem responseCodesPerCommand : Obligations.ResponseCodesPerCommand := by
  unfold Obligations.ResponseCodesPerCommand
  refine ⟨fun i s t hexec => ?_, fun w s t hlegal haccept => ?_⟩
  · rw [(exec_answerCode hexec).1]
    exact s.answerCode_mem_codes i
  · obtain ⟨e, hdecode⟩ := exists_error_of_legal_eq_false hlegal
    rw [acceptWord_illegal w s e hdecode] at haccept
    cases haccept
    rfl

/-- FA.TAIL has one word (30_encoding.md R50). -/
theorem eq_faTail_iff_of_decode {w : Word} {i : Instr} (hdecode : decode w = .ok i) :
    i = .faTail ↔ w = encode .faTail := by
  constructor
  · rintro rfl
    exact (encode_of_decode hdecode).symm
  · rintro rfl
    rw [decode_encode (i := .faTail) trivial] at hdecode
    cases hdecode
    rfl

/-- Settles O28: a word that does not decode is ILLEGAL and is no word of FA.TAIL; one that does is legal and answers the
code of its command. -/
theorem rejectedCommandsLeaveState : Obligations.RejectedCommandsLeaveState := by
  unfold Obligations.RejectedCommandsLeaveState
  intro w s t haccept
  cases hdecode : decode w with
  | error e =>
    have hlegal : legal w = false := Bool.eq_false_iff.mpr ((not_legal_iff_exists_error w).mpr ⟨e, hdecode⟩)
    have hword : w ≠ encode .faTail := by
      rintro rfl
      rw [decode_encode (i := .faTail) trivial] at hdecode
      cases hdecode
    rw [acceptWord_illegal w s e hdecode] at haccept
    cases haccept
    exact ⟨fun _ => rfl, by simp [hlegal], by simp [hword], by simp [hlegal]⟩
  | ok i =>
    have hlegal : legal w = true := (legal_iff_exists_decode w).mpr ⟨i, hdecode⟩
    have hop : opField w = opcode i := encode_of_decode hdecode ▸ (encode_fields i).1
    rw [acceptWord_command w s i hdecode] at haccept
    obtain ⟨hcode, hrejected⟩ := exec_answerCode haccept
    rw [hcode, hop, ← eq_faTail_iff_of_decode hdecode]
    refine ⟨hrejected, ?_, s.answerCode_eq_empty_iff i, ?_⟩
    · simp [s.answerCode_ne_illegal i, hlegal]
    · simp [s.answerCode_eq_closed_iff i, hlegal]

end Sys2Proof.Claims

/-! The transmit path and the receive path (60_exceptions.md R141, 70_reset_and_hazards.md R149): what each holds makes no
difference to the other's commands. -/

namespace Sys2Proof.Machine

open Sys2Proof.Claims

/-- The state with another CRC engine. -/
def State.withCrc (c : Half) (b : Bool) (s : State) : State := { s with crc := c, cne := b }

theorem feedsCommute_withCrc (c : Half) (b : Bool) : FeedsCommute (State.withCrc c b) where
  push _ _ := rfl
  bit e s := by
    have hhv : (s.withCrc c b).hv = s.hv := rfl
    have hh : (s.withCrc c b).h = s.h := rfl
    have hev : (s.withCrc c b).ev = s.ev := rfl
    rw [mdStep, mdStep, hhv, hh, hev]
    dsimp only
    split_ifs <;> rfl

theorem State.endRx_withCrc (c : Half) (b : Bool) (s : State) : (s.withCrc c b).endRx = s.endRx.withCrc c b := by
  cases hdone : s.done with
  | true => rw [State.endRx_of_done hdone, State.endRx_of_done (s := s.withCrc c b) hdone]
  | false => rw [State.endRx_of_open hdone, State.endRx_of_open (s := s.withCrc c b) hdone]; rfl

/-- A command of the receive channel runs the same whatever the CRC engine holds, and leaves it there. -/
theorem exec_withCrc {i : Instr} {s t : State} (hreceive : isReceive i = true) (hexec : exec i s = .next t) (c : Half)
    (b : Bool) : exec i (s.withCrc c b) = .next (t.withCrc c b) := by
  have hcomm := feedsCommute_withCrc c b
  cases i with
  | nop | crcClr | crcFeed | faTail | menc | rd | srst => cases hreceive
  | rxClr => cases hexec; rfl
  | rxEnd => cases hexec; rw [exec_rxEnd, State.endRx_withCrc]; rfl
  | mdFeed | fdFeed =>
    cases hdone : s.done with
    | true =>
      have hdone' : (s.withCrc c b).done = true := hdone
      simp only [exec_mdFeed_closed, exec_fdFeed_closed, hdone, hdone'] at hexec ⊢
      cases hexec
      rfl
    | false =>
      have hdone' : (s.withCrc c b).done = false := hdone
      simp only [exec_mdFeed_open, exec_fdFeed_open, hdone, hdone', hcomm.mdRun_comm, hcomm.fdRun_comm] at hexec ⊢
      cases hexec
      rfl

/-- It leaves the CRC engine as it was: that is `exec_withCrc` with what the engine already holds. -/
theorem crc_cne_of_isReceive {i : Instr} {s t : State} (hreceive : isReceive i = true) (hexec : exec i s = .next t) :
    t.crc = s.crc ∧ t.cne = s.cne := by
  have hsame : exec i s = .next (t.withCrc s.crc s.cne) := exec_withCrc hreceive hexec s.crc s.cne
  rw [hexec] at hsame
  injection hsame with h
  rw [h]
  exact ⟨rfl, rfl⟩

/-- A command of the transmit path leaves the receive channel. -/
theorem sameRx_of_isTransmit {i : Instr} {s t : State} (htransmit : isTransmit i = true) (hexec : exec i s = .next t) :
    SameRx t s := by
  obtain ⟨c, v, rfl⟩ := eq_effect_respond_of_exec hexec
  cases i with
  | crcClr | crcFeed | faTail | menc => simp [SameRx, State.effect]
  | nop | rxClr | mdFeed | fdFeed | rxEnd | rd | srst => cases htransmit

/-- A command of the transmit path reads the CRC engine only. -/
theorem exec_eq_of_isTransmit {i : Instr} {s u t v : State} (htransmit : isTransmit i = true) (hcrc : s.crc = u.crc)
    (hcne : s.cne = u.cne) (hs : exec i s = .next t) (hu : exec i u = .next v) :
    t.crc = v.crc ∧ t.cne = v.cne ∧ t.rcode = v.rcode ∧ t.rdata = v.rdata := by
  cases i with
  | crcClr => cases hs; cases hu; exact ⟨rfl, rfl, rfl, rfl⟩
  | crcFeed => cases hs; cases hu; simp [hcrc]
  | menc => cases hs; cases hu; exact ⟨hcrc, hcne, rfl, rfl⟩
  | faTail =>
    cases hempty : u.cne with
    | true =>
      rw [exec_faTail_ok s (hcne.trans hempty)] at hs
      rw [exec_faTail_ok u hempty] at hu
      cases hs
      cases hu
      simp [hcrc, hcne]
    | false =>
      rw [exec_faTail_empty s (hcne.trans hempty)] at hs
      rw [exec_faTail_empty u hempty] at hu
      cases hs
      cases hu
      exact ⟨hcrc, hcne, rfl, rfl⟩
  | nop | rxClr | mdFeed | fdFeed | rxEnd | rd | srst => cases htransmit

end Sys2Proof.Machine

namespace Sys2Proof.Claims

open Sys2Proof.Machine

/-- Settles O33: a change of the CRC engine commutes with the commands of the receive channel; those of the transmit path
read the CRC engine only. -/
theorem transmitReceiveDisjoint : Obligations.TransmitReceiveDisjoint := by
  unfold Obligations.TransmitReceiveDisjoint
  refine ⟨fun i s t c b hreceive hexec => ?_, fun i s u t v htransmit hcrc hcne hs hu => ?_⟩
  · obtain ⟨hcrc, hcne⟩ := crc_cne_of_isReceive hreceive hexec
    exact ⟨hcrc, hcne, exec_withCrc hreceive hexec c b⟩
  · obtain ⟨hcrc', hcne', hrcode, hrdata⟩ := exec_eq_of_isTransmit htransmit hcrc hcne hs hu
    exact ⟨hcrc', hcne', hrcode, hrdata, sameRx_of_isTransmit htransmit hs, sameRx_of_isTransmit htransmit hu⟩

end Sys2Proof.Claims

/-! The reset input and the host's start-up check (70_reset_and_hazards.md R144, R145, R148). -/

namespace Sys2Proof.Machine

theorem acceptWord_srst (s : State) : acceptWord (encode .srst) s = .next { State.reset with port := s.port } := by
  rw [acceptWord_command _ s .srst (decode_encode (i := .srst) trivial), exec_srst, clearCrc_clearRx_respond_eq_reset]

theorem acceptWord_rd_cfg (s : State) : acceptWord (encode (.rd .cfg)) s = .next (s.respond .ok 0x00101021#32) := by
  rw [acceptWord_command _ s (.rd .cfg) (decode_encode (i := .rd .cfg) trivial), exec_rd, State.readReg, cfgWord_eq]

end Sys2Proof.Machine

namespace Sys2Proof.Harness

open Sys2Proof.Machine

/-- SRST leaves the reset response, and CFG is a constant (10_state.md R31, R35). -/
theorem transcript_startUpWords_snd (s : State) :
    (transcript startUpWords s).2 = [⟨.ok, 0#32⟩, ⟨.ok, 0x00101021#32⟩] := by
  rw [startUpWords, List.map_cons, List.map_cons, List.map_nil, transcript_cons_snd (acceptWord_srst s),
    transcript_cons_snd (acceptWord_rd_cfg _)]
  rfl

theorem startUpOk_eq_true (s : State) : startUpOk s = true := by
  rw [startUpOk, transcript_startUpWords_snd]
  rfl

end Sys2Proof.Harness

namespace Sys2Proof.Claims

open Sys2Proof.Machine Sys2Proof.Harness

/-- Settles O10: the reset move sets the reset state whatever word it carries, and a step with no move is idle. -/
theorem resetInputRestoresResetState : Obligations.ResetInputRestoresResetState := by
  unfold Obligations.ResetInputRestoresResetState
  exact ⟨fun _ _ _ hport => step_reset hport, fun _ hport => step_idle hport⟩

/-- Settles O25: the check reads the last of the two answers, which no state changes. -/
theorem startUpCheckPasses : Obligations.StartUpCheckPasses := by
  unfold Obligations.StartUpCheckPasses
  exact fun s => ⟨startUpOk_eq_true s, transcript_startUpWords_snd s⟩

end Sys2Proof.Claims
